-- ==== Sys2Proof/Word.lean ====
section
/-! DEFINITION. The 32-bit word of the ports (XLEN, spec/00_scope.md R8) and the command beat (spec/30_encoding.md R70). -/

namespace Sys2Proof

/-- A 32-bit quantity of the ports or of a control register; bit 0 is the least significant (20_memory.md R51). -/
abbrev Word := BitVec 32

/-- A command beat: the command word `CMD` and the argument word `ARG`, presented and accepted together (R70). -/
structure Beat where
  cmd : Word
  arg : Word
deriving DecidableEq, Repr

end Sys2Proof
end

