-- ==== Sys2Proof/Config.lean ====
section
/-! DEFINITION. The parameters of an instance (spec/00_scope.md R8). The one open parameter is `R_MAX`. -/

namespace Sys2Proof.Config

/-- `R_MAX` is an integer with 1 ≤ R_MAX ≤ 16 (R8, decision D4). -/
abbrev LegalRMax (rMax : Nat) : Prop := 1 ≤ rMax ∧ rMax ≤ 16

/-- The `R_MAX` of the instance that `State.reset` stands for. DESIGN CHOICE (log entry 1), unsafe where a claim rests on
it: the spec leaves `R_MAX` open and its test vectors use 5. `State.resetOf` is the reset state for every `R_MAX`. -/
def resetRMax : Nat := 5

/-- `NV`, the number of vector registers (R8, D5). -/
def numVectors : Nat := 4

/-- `LFSR_RESET` (R8, D10). -/
def lfsrReset : Word := 0x00000001

end Sys2Proof.Config
end

