-- ==== Sys2Proof/Syntax.lean ====
section
/-! DEFINITION. The 21 commands of spec/opcode_table.json (spec/30_encoding.md R74). -/

namespace Sys2Proof

/-- The vector registers (10_state.md R21). -/
inductive VReg where
  | V0 | V1 | V2 | V3
deriving DecidableEq, Repr

/-- The control registers (10_state.md R28). -/
inductive Csr where
  | id | cap | r | lfsr | status | pos | peak | dist | msg | flips | ecmd | earg
deriving DecidableEq, Repr

/-- One constructor per row of the opcode table. Operands come in the order of R82: `vd`, `va`, `vb`, `imm12`, `ARG`.
Every command carries its `arg`, also where it ignores it, because `ARG` is copied to `EARG` when the command raises
(R70). The `number` of `CSRR` and `CSRW` and the word index `k` are the 12 bits of `imm12` (R71). -/
inductive Instr where
  /-- R160 -/
  | nop (arg : Word)
  /-- R161 -/
  | csrr (number : BitVec 12) (arg : Word)
  /-- R162 -/
  | csrw (number : BitVec 12) (arg : Word)
  /-- R91 -/
  | vnew (vd : VReg) (arg : Word)
  /-- R92 -/
  | vldw (vd : VReg) (k : BitVec 12) (arg : Word)
  /-- R93 -/
  | vrdw (va : VReg) (k : BitVec 12) (arg : Word)
  /-- R94 -/
  | vlen (va : VReg) (arg : Word)
  /-- R96 -/
  | vget (va : VReg) (arg : Word)
  /-- R97 -/
  | vset (vd : VReg) (arg : Word)
  /-- R98 -/
  | vclrb (vd : VReg) (arg : Word)
  /-- R99 -/
  | vflip (vd : VReg) (arg : Word)
  /-- R100 -/
  | vnot (vd va : VReg) (arg : Word)
  /-- R101 -/
  | vand (vd va vb : VReg) (arg : Word)
  /-- R102 -/
  | vor (vd va vb : VReg) (arg : Word)
  /-- R113 -/
  | enc (vd : VReg) (arg : Word)
  /-- R117 -/
  | dec (va : VReg) (arg : Word)
  /-- R131 -/
  | alter (vd va : VReg) (arg : Word)
  /-- R143 -/
  | fht (va : VReg) (arg : Word)
  /-- R144 -/
  | frd (arg : Word)
  /-- R145 -/
  | fmax (arg : Word)
  /-- R149 -/
  | unalter (vd va : VReg) (arg : Word)
deriving DecidableEq, Repr

end Sys2Proof
end

