-- ==== Sys2Proof/WellFormed.lean ====
section
/-! DEFINITION. Which instructions are legal commands: the conditions (d) and (e) of spec/30_encoding.md R75. The
conditions (a), (b) and (c) are the decoder's; an `Instr` cannot break them. -/

namespace Sys2Proof

/-- R75 (d): `imm12` is a control register number 0x000 to 0x00B. -/
def csrNumberExists (n : BitVec 12) : Bool := decide (n.toNat ≤ 0x00B)

/-- R75 (e): the register is `R`, `LFSR` or `STATUS`. -/
def csrNumberWritable (n : BitVec 12) : Bool := n == 0x002#12 || n == 0x003#12 || n == 0x004#12

/-- The instruction is a legal command of R75. -/
def Instr.wellFormed : Instr → Bool
  | .nop _ => true
  | .csrr n _ => csrNumberExists n
  | .csrw n _ => csrNumberExists n && csrNumberWritable n
  | .vnew _ _ => true
  | .vldw _ _ _ => true
  | .vrdw _ _ _ => true
  | .vlen _ _ => true
  | .vget _ _ => true
  | .vset _ _ => true
  | .vclrb _ _ => true
  | .vflip _ _ => true
  | .vnot _ _ _ => true
  | .vand _ _ _ _ => true
  | .vor _ _ _ _ => true
  | .enc _ _ => true
  | .dec _ _ => true
  | .alter _ _ _ => true
  | .fht _ _ => true
  | .frd _ => true
  | .fmax _ => true
  | .unalter _ _ _ => true

end Sys2Proof
end

