-- ==== Sys2Proof/Decode.lean ====
section
/-! DEFINITION. The command word: fields, decoder and encoder (spec/30_encoding.md R71 to R78, R82). -/

namespace Sys2Proof

/-- The five fields of `CMD` (R71). -/
structure Fields where
  op : BitVec 8
  vd : BitVec 4
  va : BitVec 4
  vb : BitVec 4
  imm12 : BitVec 12
deriving DecidableEq, Repr

/-- The fields of a command word: `op` 31:24, `vd` 23:20, `va` 19:16, `vb` 15:12, `imm12` 11:0 (R71). -/
def Fields.ofCmd (cmd : Word) : Fields where
  op := cmd.extractLsb' 24 8
  vd := cmd.extractLsb' 20 4
  va := cmd.extractLsb' 16 4
  vb := cmd.extractLsb' 12 4
  imm12 := cmd.extractLsb' 0 12

/-- The command word with the given fields (R71). -/
def Fields.toCmd (f : Fields) : Word := (f.op ++ f.vd ++ f.va ++ f.vb ++ f.imm12).setWidth 32

/-- A register field names a register only at the values 0 to 3 (R71). -/
def VReg.ofField (b : BitVec 4) : Option VReg :=
  if b = 0#4 then some .V0
  else if b = 1#4 then some .V1
  else if b = 2#4 then some .V2
  else if b = 3#4 then some .V3
  else none

/-- The register number of a vector register (10_state.md R21). -/
def VReg.toField : VReg → BitVec 4
  | .V0 => 0#4
  | .V1 => 1#4
  | .V2 => 2#4
  | .V3 => 3#4

/-- The number of a control register (10_state.md R28). -/
def Csr.number : Csr → BitVec 12
  | .id => 0x000#12
  | .cap => 0x001#12
  | .r => 0x002#12
  | .lfsr => 0x003#12
  | .status => 0x004#12
  | .pos => 0x005#12
  | .peak => 0x006#12
  | .dist => 0x007#12
  | .msg => 0x008#12
  | .flips => 0x009#12
  | .ecmd => 0x00A#12
  | .earg => 0x00B#12

/-- The control register of a number; the numbers 0x00C to 0xFFF are none (10_state.md R28, R36). -/
def Csr.ofNumber (n : BitVec 12) : Option Csr :=
  [Csr.id, .cap, .r, .lfsr, .status, .pos, .peak, .dist, .msg, .flips, .ecmd, .earg].find? fun c => c.number == n

/-- Why a command word names no row of the opcode table: the condition of R75 it breaks. Each of them makes the command
raise `ILLEGAL_COMMAND`. -/
inductive Reject where
  /-- (a): `op` is not one of the 21 values of R74. -/
  | reservedOpcode
  /-- (b): a field the command's format does not use is not zero. -/
  | unusedFieldNotZero
  /-- (c): a register field the format uses holds a value above 3. -/
  | noSuchRegister
deriving DecidableEq, Repr

/-- Condition (b) of R75: the fields the format does not use must be zero. -/
def requireZero (unusedZero : Bool) (rest : Except Reject Instr) : Except Reject Instr :=
  if unusedZero then rest else .error .unusedFieldNotZero

/-- Condition (c) of R75: a used register field names a register. -/
def withReg (b : BitVec 4) (build : VReg → Except Reject Instr) : Except Reject Instr :=
  match VReg.ofField b with
  | some n => build n
  | none => .error .noSuchRegister

/-- Format `Z`: nothing in `CMD` but `op` (R72). -/
def formatZ (f : Fields) (build : Instr) : Except Reject Instr :=
  requireZero (f.vd == 0 && f.va == 0 && f.vb == 0 && f.imm12 == 0) (.ok build)

/-- Format `C`: `imm12` is a control register number (R72). -/
def formatC (f : Fields) (build : BitVec 12 → Instr) : Except Reject Instr :=
  requireZero (f.vd == 0 && f.va == 0 && f.vb == 0) (.ok (build f.imm12))

/-- Format `D`: uses `vd` (R72). -/
def formatD (f : Fields) (build : VReg → Instr) : Except Reject Instr :=
  requireZero (f.va == 0 && f.vb == 0 && f.imm12 == 0) (withReg f.vd fun vd => .ok (build vd))

/-- Format `DK`: uses `vd` and `imm12` (R72). -/
def formatDK (f : Fields) (build : VReg → BitVec 12 → Instr) : Except Reject Instr :=
  requireZero (f.va == 0 && f.vb == 0) (withReg f.vd fun vd => .ok (build vd f.imm12))

/-- Format `A`: uses `va` (R72). -/
def formatA (f : Fields) (build : VReg → Instr) : Except Reject Instr :=
  requireZero (f.vd == 0 && f.vb == 0 && f.imm12 == 0) (withReg f.va fun va => .ok (build va))

/-- Format `AK`: uses `va` and `imm12` (R72). -/
def formatAK (f : Fields) (build : VReg → BitVec 12 → Instr) : Except Reject Instr :=
  requireZero (f.vd == 0 && f.vb == 0) (withReg f.va fun va => .ok (build va f.imm12))

/-- Format `DA`: uses `vd` and `va` (R72). -/
def formatDA (f : Fields) (build : VReg → VReg → Instr) : Except Reject Instr :=
  requireZero (f.vb == 0 && f.imm12 == 0) (withReg f.vd fun vd => withReg f.va fun va => .ok (build vd va))

/-- Format `DAB`: uses `vd`, `va` and `vb` (R72). -/
def formatDAB (f : Fields) (build : VReg → VReg → VReg → Instr) : Except Reject Instr :=
  requireZero (f.imm12 == 0)
    (withReg f.vd fun vd => withReg f.va fun va => withReg f.vb fun vb => .ok (build vd va vb))

/-- The decoder, by the procedure of R77 up to condition (c) of R75. Conditions (d) and (e) of R75 are the instruction's
`wellFormed`; a `CSRR` or `CSRW` that breaks them raises in its own meaning, where R161 and R162 put the check
(log entry 7). -/
def decode (b : Beat) : Except Reject Instr :=
  let f := Fields.ofCmd b.cmd
  match f.op with
  | 0x00#8 => formatZ f (.nop b.arg)
  | 0x01#8 => formatC f fun n => .csrr n b.arg
  | 0x02#8 => formatC f fun n => .csrw n b.arg
  | 0x10#8 => formatD f fun vd => .vnew vd b.arg
  | 0x11#8 => formatDK f fun vd k => .vldw vd k b.arg
  | 0x12#8 => formatAK f fun va k => .vrdw va k b.arg
  | 0x13#8 => formatA f fun va => .vlen va b.arg
  | 0x14#8 => formatA f fun va => .vget va b.arg
  | 0x15#8 => formatD f fun vd => .vset vd b.arg
  | 0x16#8 => formatD f fun vd => .vclrb vd b.arg
  | 0x17#8 => formatD f fun vd => .vflip vd b.arg
  | 0x18#8 => formatDA f fun vd va => .vnot vd va b.arg
  | 0x19#8 => formatDAB f fun vd va vb => .vand vd va vb b.arg
  | 0x1A#8 => formatDAB f fun vd va vb => .vor vd va vb b.arg
  | 0x20#8 => formatD f fun vd => .enc vd b.arg
  | 0x21#8 => formatA f fun va => .dec va b.arg
  | 0x30#8 => formatDA f fun vd va => .alter vd va b.arg
  | 0x40#8 => formatA f fun va => .fht va b.arg
  | 0x41#8 => formatZ f (.frd b.arg)
  | 0x42#8 => formatZ f (.fmax b.arg)
  | 0x43#8 => formatDA f fun vd va => .unalter vd va b.arg
  | _ => .error .reservedOpcode

/-- The beat whose command word has the given fields. -/
def beatOf (op : BitVec 8) (vd va vb : BitVec 4) (imm12 : BitVec 12) (arg : Word) : Beat :=
  ⟨Fields.toCmd ⟨op, vd, va, vb, imm12⟩, arg⟩

/-- The encoder: the beat of an instruction, by the table of R82. -/
def encode : Instr → Beat
  | .nop arg => beatOf 0x00 0 0 0 0 arg
  | .csrr n arg => beatOf 0x01 0 0 0 n arg
  | .csrw n arg => beatOf 0x02 0 0 0 n arg
  | .vnew vd arg => beatOf 0x10 vd.toField 0 0 0 arg
  | .vldw vd k arg => beatOf 0x11 vd.toField 0 0 k arg
  | .vrdw va k arg => beatOf 0x12 0 va.toField 0 k arg
  | .vlen va arg => beatOf 0x13 0 va.toField 0 0 arg
  | .vget va arg => beatOf 0x14 0 va.toField 0 0 arg
  | .vset vd arg => beatOf 0x15 vd.toField 0 0 0 arg
  | .vclrb vd arg => beatOf 0x16 vd.toField 0 0 0 arg
  | .vflip vd arg => beatOf 0x17 vd.toField 0 0 0 arg
  | .vnot vd va arg => beatOf 0x18 vd.toField va.toField 0 0 arg
  | .vand vd va vb arg => beatOf 0x19 vd.toField va.toField vb.toField 0 arg
  | .vor vd va vb arg => beatOf 0x1A vd.toField va.toField vb.toField 0 arg
  | .enc vd arg => beatOf 0x20 vd.toField 0 0 0 arg
  | .dec va arg => beatOf 0x21 0 va.toField 0 0 arg
  | .alter vd va arg => beatOf 0x30 vd.toField va.toField 0 0 arg
  | .fht va arg => beatOf 0x40 0 va.toField 0 0 arg
  | .frd arg => beatOf 0x41 0 0 0 0 arg
  | .fmax arg => beatOf 0x42 0 0 0 0 arg
  | .unalter vd va arg => beatOf 0x43 vd.toField va.toField 0 0 arg

/-- One row of the opcode table as R77 reads it: a word is the row's when `(CMD & mask) == pattern`. -/
structure OpcodeRow where
  mnemonic : String
  mask : Word
  pattern : Word
deriving DecidableEq, Repr

/-- The rows of spec/opcode_table.json (their `mask` and `match`). The decoder does not use them; statements do. -/
def opcodeTable : List OpcodeRow :=
  [⟨"NOP", 0xFFFFFFFF, 0x00000000⟩, ⟨"CSRR", 0xFFFFF000, 0x01000000⟩, ⟨"CSRW", 0xFFFFF000, 0x02000000⟩,
   ⟨"VNEW", 0xFFCFFFFF, 0x10000000⟩, ⟨"VLDW", 0xFFCFF000, 0x11000000⟩, ⟨"VRDW", 0xFFFCF000, 0x12000000⟩,
   ⟨"VLEN", 0xFFFCFFFF, 0x13000000⟩, ⟨"VGET", 0xFFFCFFFF, 0x14000000⟩, ⟨"VSET", 0xFFCFFFFF, 0x15000000⟩,
   ⟨"VCLRB", 0xFFCFFFFF, 0x16000000⟩, ⟨"VFLIP", 0xFFCFFFFF, 0x17000000⟩, ⟨"VNOT", 0xFFCCFFFF, 0x18000000⟩] ++
  [⟨"VAND", 0xFFCCCFFF, 0x19000000⟩, ⟨"VOR", 0xFFCCCFFF, 0x1A000000⟩, ⟨"ENC", 0xFFCFFFFF, 0x20000000⟩,
   ⟨"DEC", 0xFFFCFFFF, 0x21000000⟩, ⟨"ALTER", 0xFFCCFFFF, 0x30000000⟩, ⟨"FHT", 0xFFFCFFFF, 0x40000000⟩,
   ⟨"FRD", 0xFFFFFFFF, 0x41000000⟩, ⟨"FMAX", 0xFFFFFFFF, 0x42000000⟩, ⟨"UNALTER", 0xFFCCFFFF, 0x43000000⟩]

/-- The word matches the row (R77). -/
def OpcodeRow.matches (row : OpcodeRow) (cmd : Word) : Bool := cmd &&& row.mask == row.pattern

/-- The mnemonic of an instruction, as the opcode table has it. -/
def Instr.mnemonic : Instr → String
  | .nop _ => "NOP"
  | .csrr _ _ => "CSRR"
  | .csrw _ _ => "CSRW"
  | .vnew _ _ => "VNEW"
  | .vldw _ _ _ => "VLDW"
  | .vrdw _ _ _ => "VRDW"
  | .vlen _ _ => "VLEN"
  | .vget _ _ => "VGET"
  | .vset _ _ => "VSET"
  | .vclrb _ _ => "VCLRB"
  | .vflip _ _ => "VFLIP"
  | .vnot _ _ _ => "VNOT"
  | .vand _ _ _ _ => "VAND"
  | .vor _ _ _ _ => "VOR"
  | .enc _ _ => "ENC"
  | .dec _ _ => "DEC"
  | .alter _ _ _ => "ALTER"
  | .fht _ _ => "FHT"
  | .frd _ => "FRD"
  | .fmax _ => "FMAX"
  | .unalter _ _ _ => "UNALTER"

/-- The beat of the bits `w mod 2^nbits`: `CMD` is the first word (bits 31:0), `ARG` the second (bits 63:32)
(log entry 10). -/
def beatOfTableWord (nbits w : Nat) : Beat :=
  let bits := w % 2 ^ nbits
  ⟨BitVec.ofNat 32 bits, BitVec.ofNat 32 (bits / 2 ^ 32)⟩

/-- The instruction the decoder reads from the bits of an opcode-table row. -/
def decodeTableWord (nbits w : Nat) : Option Instr := (decode (beatOfTableWord nbits w)).toOption

end Sys2Proof
end

