-- ==== Sys2Proof/Machine/State.lean ====
section
/-! DEFINITION. The machine's state, its reset, and the reasons a step can stop (spec/10_state.md). -/

namespace Sys2Proof.Machine

/-- The error codes 1 to 6 (60_exceptions.md R170). -/
inductive Error where
  | illegalCommand | invalidParameter | notConfigured | noResult | badIndex | lenMismatch
deriving DecidableEq, Repr

/-- The status of a response and the content of `STATUS.CAUSE`: `OK` or an error; the codes 7 to 15 are never produced
(R170, I20). -/
inductive Status where
  | ok
  | error (e : Error)
deriving DecidableEq, Repr

/-- A response beat (30_encoding.md R79). -/
structure Response where
  status : Status
  data : Word
deriving DecidableEq, Repr

/-- A vector register: a bit vector of length `len` whose canonical non-negative integer value is `val`; bit `i` is
`val.testBit i` (R21). `len ≤ W` and `val < 2 ^ len` is the invariant R22. -/
structure Vec where
  len : Nat
  val : Nat
deriving DecidableEq, Repr

/-- The result registers `POS`, `PEAK`, `DIST`, `MSG`, 32 bits each (R20, R33). `PEAK` is the two's complement pattern
of the signed coefficient. -/
structure Peak where
  pos : Word
  peak : Word
  dist : Word
  msg : Word
deriving DecidableEq, Repr

/-- The coefficient file while `FVALID = 1`: the entries `F[0]` .. `F[2^r − 1]` (R37, R38), and the result registers,
absent while `MVALID = 0` (R33). -/
structure Transform where
  coeffs : List Int
  peak : Option Peak
deriving DecidableEq, Repr

/-- The codec instance constructed by the last `CSRW R` (R30): the code parameter `r`, and the coefficient file, absent
while `FVALID = 0` (R38). -/
structure Codec where
  r : Nat
  transform : Option Transform
deriving DecidableEq, Repr

/-- What the host drives on the block's input ports at one port event (30_encoding.md R80): `rst`; `cmd_valid` with
`cmd_word` and `cmd_arg` (a presented beat, or none); `rsp_ready`. -/
structure PortIn where
  rst : Bool
  cmd : Option Beat
  rspReady : Bool
deriving DecidableEq, Repr

/-- The architectural state of one instance (R20), the response port (R40, R79), the instance's parameter, and the
host's side. A cell that holds "no value" is absent (R42: an option type, not zero; log entry 5). -/
structure State where
  /-- `R_MAX` (00_scope.md R8): the instance's parameter, which no step writes (log entry 1). -/
  rMax : Nat
  v0 : Vec
  v1 : Vec
  v2 : Vec
  v3 : Vec
  /-- `R`, the coefficient file and the result registers; present exactly while `RVALID = 1`. -/
  codec : Option Codec
  lfsr : Word
  /-- `STATUS.ERR` -/
  err : Bool
  /-- `STATUS.CAUSE` -/
  cause : Status
  flips : Word
  ecmd : Word
  earg : Word
  /-- The response pending on the response port; present exactly while a command is in flight (R40, R81). -/
  rsp : Option Response
  /-- The model's own: what the host drives at the coming port events, the next first (log entry 2). -/
  inputs : List PortIn
  /-- The model's own: the responses the host has taken, the oldest first (70_reset_and_hazards.md R209). -/
  taken : List Response
deriving DecidableEq, Repr

/-- The reset state of the instance with the given `R_MAX`, by the table of R42. -/
def State.resetOf (rMax : Nat) : State where
  rMax := rMax
  v0 := ⟨0, 0⟩
  v1 := ⟨0, 0⟩
  v2 := ⟨0, 0⟩
  v3 := ⟨0, 0⟩
  codec := none
  lfsr := Config.lfsrReset
  err := false
  cause := .ok
  flips := 0
  ecmd := 0
  earg := 0
  rsp := none
  inputs := []
  taken := []

/-- The machine right after reset: the reset state of R42, for the instance of the spec's test vectors (log entry 1). -/
def State.reset : State := State.resetOf Config.resetRMax

/-- Why a step stops the machine: there is no reason. Every command has a defined outcome, an error is an answer with a
trap record, and there is "no state in which the block stops accepting commands" (R184, R212). -/
inductive Fault where
deriving DecidableEq, Repr

/-- Why a step has no meaning. -/
inductive Refusal where
  /-- Raised by `exec` for an instruction that has no meaning yet; safe. No arm of `exec` answers it now. -/
  | notModelled (mnemonic : String)
deriving DecidableEq, Repr

end Sys2Proof.Machine
end

