-- ==== Sys2Proof/Machine/Operands.lean ====
section
/-! DEFINITION. Operand forms: sizes, indices, truncation, extension and the status codes (spec/00_scope.md R8, R11, R12;
spec/30_encoding.md R73; spec/41_codec.md R114). `bit_i(v)` of R11 is Lean's `v.testBit i`. -/

namespace Sys2Proof.Machine

/-- `W = 2^R_MAX`, the capacity of a vector register in bits (R8). -/
def State.capacity (s : State) : Nat := 2 ^ s.rMax

/-- `NWORDS = max(1, W/32)` (R8). -/
def State.numWords (s : State) : Nat := max 1 (s.capacity / 32)

/-- `trunc_N(v)` (R12). -/
def trunc (n v : Nat) : Nat := v % 2 ^ n

/-- `zext_32(v)` of a non-negative integer below 2^32 (R12). -/
def zext32 (v : Nat) : Word := BitVec.ofNat 32 v

/-- `sext_32(v)`: a signed integer as its 32-bit two's complement pattern (R12). -/
def sext32 (v : Int) : Word := BitVec.ofInt 32 v

/-- The message operand of the codec: the low r+1 bits (R114 (a)). -/
def messageOperand (r v : Nat) : Nat := trunc (r + 1) v

/-- The word operand of the codec and the transform: the low 2^r bits of the source's value; the source's length plays
no other part (R114 (b)). -/
def wordOperand (r : Nat) (x : Vec) : Nat := trunc (2 ^ r) x.val

/-- Word `k` of a vector: `val[32k+31 : 32k]` (20_memory.md R51, 40_bitvector.md R93). -/
def wordOfVec (x : Vec) (k : Nat) : Nat := x.val / 2 ^ (32 * k) % 2 ^ 32

/-- The vector with word `k` replaced by `data`, bits at and above `len` dropped (R92). -/
def vecWithWord (x : Vec) (k data : Nat) : Vec :=
  let lo := x.val % 2 ^ (32 * k)
  let hi := x.val / 2 ^ (32 * k + 32)
  ⟨x.len, trunc x.len (lo + data * 2 ^ (32 * k) + hi * 2 ^ (32 * k + 32))⟩

/-- The code of an error (R170). -/
def Error.code : Error → Nat
  | .illegalCommand => 1
  | .invalidParameter => 2
  | .notConfigured => 3
  | .noResult => 4
  | .badIndex => 5
  | .lenMismatch => 6

/-- The 4-bit status code (R170). -/
def Status.code : Status → Nat
  | .ok => 0
  | .error e => e.code

end Sys2Proof.Machine
end

