-- ==== Sys2Proof/Machine/Flags.lean ====
section
/-! DEFINITION. The four flags, the `STATUS` word and the updates that set or clear a validity flag (spec/10_state.md R27,
R30, R32, R38). -/

namespace Sys2Proof.Machine

/-- The value of `CSR.R`, absent while `RVALID = 0` (R30). -/
def State.param? (s : State) : Option Nat := s.codec.map (·.r)

/-- The coefficient file with its results, absent while `FVALID = 0` (R38). -/
def State.transform? (s : State) : Option Transform := s.codec.bind (·.transform)

/-- The result registers, absent while `MVALID = 0` (R33). -/
def State.peak? (s : State) : Option Peak := s.transform?.bind (·.peak)

/-- `STATUS.RVALID`: `R` holds a value (R32). -/
def State.rvalid (s : State) : Bool := s.param?.isSome

/-- `STATUS.FVALID`: the coefficient file holds a transform under the current `R` (R32). -/
def State.fvalid (s : State) : Bool := s.transform?.isSome

/-- `STATUS.MVALID`: the result registers hold a peak search over the current file (R32). -/
def State.mvalid (s : State) : Bool := s.peak?.isSome

/-- `CSR.STATUS`: [0] `RVALID`, [1] `FVALID`, [2] `MVALID`, [3] `ERR`, [7:4] `CAUSE` (R28, R32). -/
def State.statusWord (s : State) : Word :=
  zext32 (s.rvalid.toNat + 2 * s.fvalid.toNat + 4 * s.mvalid.toNat + 8 * s.err.toNat + 16 * s.cause.code)

/-- `CSRW R`: writes `r`, sets `RVALID`, clears `FVALID` and `MVALID` (R30). -/
def State.configure (r : Nat) (s : State) : State := { s with codec := some ⟨r, none⟩ }

/-- A transform under `r`: writes the coefficient file, sets `FVALID`, clears `MVALID` (43_hadamard.md R143). -/
def State.loadTransform (r : Nat) (coeffs : List Int) (s : State) : State :=
  { s with codec := some ⟨r, some ⟨coeffs, none⟩⟩ }

/-- A peak search over the file `coeffs` under `r`: writes the result registers, sets `MVALID` (R145). -/
def State.loadPeak (r : Nat) (coeffs : List Int) (p : Peak) (s : State) : State :=
  { s with codec := some ⟨r, some ⟨coeffs, some p⟩⟩ }

end Sys2Proof.Machine
end

