-- ==== Sys2Proof/Machine/Ops.lean ====
section
/-! DEFINITION. The operations over the state that every meaning is written with: the vector registers, the response, and
the trap record (spec/10_state.md R23; spec/00_scope.md R12; spec/60_exceptions.md R176, R181). -/

namespace Sys2Proof.Machine

/-- Read of a vector register (00_scope.md R12). -/
def State.v (s : State) : VReg → Vec
  | .V0 => s.v0
  | .V1 => s.v1
  | .V2 => s.v2
  | .V3 => s.v3

/-- Write of a vector register (00_scope.md R12). There is no hardwired register (R23). -/
def State.setV (s : State) (n : VReg) (x : Vec) : State :=
  match n with
  | .V0 => { s with v0 := x }
  | .V1 => { s with v1 := x }
  | .V2 => { s with v2 := x }
  | .V3 => { s with v3 := x }

/-- Every command is answered by one response beat, which then waits on the response port (30_encoding.md R79, R81). -/
def State.putResponse (r : Response) (s : State) : State := { s with rsp := some r }

/-- The outcome of a command: the next state. -/
abbrev Outcome := Host.Outcome State Fault Refusal

/-- `respond(data)`: the command ends with status `OK` and leaves the state `s` (00_scope.md R12). -/
def respond (data : Word) (s : State) : Outcome := .next (s.putResponse ⟨.ok, data⟩)

/-- TAKING AN EXCEPTION: the trap record of R176. `s` is the state before the command; nothing else of it changes. -/
def State.takeError (e : Error) (b : Beat) (s : State) : State :=
  { s with err := true, cause := .error e, ecmd := b.cmd, earg := b.arg, rsp := some ⟨.error e, 0⟩ }

/-- `raise e`: the command ends with the error, its effects undone (00_scope.md R12, R13). -/
def raise (e : Error) (b : Beat) (s : State) : Outcome := .next (s.takeError e b)

/-- There is no return from a trap; the host clears the sticky flag: `ERR <- 0`, `CAUSE <- 0`, and `ECMD`, `EARG` stay
(R181). -/
def State.clearError (s : State) : State := { s with err := false, cause := .ok }

end Sys2Proof.Machine
end

