-- ==== Sys2Proof/Machine/BitVector.lean ====
section
/-! DEFINITION. The eleven commands of the bit-vector unit (spec/40_bitvector.md). -/

namespace Sys2Proof.Machine

/-- R91. -/
def execVnew (vd : VReg) (arg : Word) (s : State) : Outcome :=
  if s.capacity < arg.toNat then raise .invalidParameter (encode (.vnew vd arg)) s
  else respond 0 (s.setV vd ⟨arg.toNat, 0⟩)

/-- R92. -/
def execVldw (vd : VReg) (k : BitVec 12) (arg : Word) (s : State) : Outcome :=
  if s.numWords ≤ k.toNat then raise .badIndex (encode (.vldw vd k arg)) s
  else respond 0 (s.setV vd (vecWithWord (s.v vd) k.toNat arg.toNat))

/-- R93. -/
def execVrdw (va : VReg) (k : BitVec 12) (arg : Word) (s : State) : Outcome :=
  if s.numWords ≤ k.toNat then raise .badIndex (encode (.vrdw va k arg)) s
  else respond (zext32 (wordOfVec (s.v va) k.toNat)) s

/-- R94. -/
def execVlen (va : VReg) (_arg : Word) (s : State) : Outcome := respond (zext32 (s.v va).len) s

/-- R96. -/
def execVget (va : VReg) (arg : Word) (s : State) : Outcome :=
  if (s.v va).len ≤ arg.toNat then raise .badIndex (encode (.vget va arg)) s
  else respond (zext32 ((s.v va).val.testBit arg.toNat).toNat) s

/-- A command that rewrites bit `arg` of a register, its length kept, or raises `BAD_INDEX` (R97, R98, R99). The whole
32-bit `arg` is the index (30_encoding.md R73). -/
def rewriteBit (i : Instr) (vd : VReg) (arg : Word) (new : Nat → Nat → Nat) (s : State) : Outcome :=
  if (s.v vd).len ≤ arg.toNat then raise .badIndex (encode i) s
  else respond 0 (s.setV vd ⟨(s.v vd).len, new (s.v vd).val arg.toNat⟩)

/-- R97. -/
def execVset (vd : VReg) (arg : Word) (s : State) : Outcome :=
  rewriteBit (.vset vd arg) vd arg (fun val i => val ||| 2 ^ i) s

/-- R98. -/
def execVclrb (vd : VReg) (arg : Word) (s : State) : Outcome :=
  rewriteBit (.vclrb vd arg) vd arg (fun val i => val - 2 ^ i * (val.testBit i).toNat) s

/-- R99. -/
def execVflip (vd : VReg) (arg : Word) (s : State) : Outcome :=
  rewriteBit (.vflip vd arg) vd arg (fun val i => val ^^^ 2 ^ i) s

/-- The complement of the `len` bits of a vector (R100). -/
def complementVec (x : Vec) : Vec := ⟨x.len, (2 ^ x.len - 1) - x.val⟩

/-- R100. -/
def execVnot (vd va : VReg) (_arg : Word) (s : State) : Outcome := respond 0 (s.setV vd (complementVec (s.v va)))

/-- A bitwise command of two registers of equal length, or `LEN_MISMATCH` (R101, R102). -/
def combineVecs (i : Instr) (vd va vb : VReg) (f : Nat → Nat → Nat) (s : State) : Outcome :=
  if (s.v va).len ≠ (s.v vb).len then raise .lenMismatch (encode i) s
  else respond 0 (s.setV vd ⟨(s.v va).len, f (s.v va).val (s.v vb).val⟩)

/-- R101. -/
def execVand (vd va vb : VReg) (arg : Word) (s : State) : Outcome :=
  combineVecs (.vand vd va vb arg) vd va vb (fun a b => a &&& b) s

/-- R102. -/
def execVor (vd va vb : VReg) (arg : Word) (s : State) : Outcome :=
  combineVecs (.vor vd va vb arg) vd va vb (fun a b => a ||| b) s

end Sys2Proof.Machine
end

