-- ==== Sys2Proof/Machine/Codec.lean ====
section
/-! DEFINITION. The Reed-Muller encoder and decoder (spec/41_codec.md): the pure functions of R111 and R116, and `ENC`,
`DEC`. -/

namespace Sys2Proof.Machine

/-- `Σ_{i<n} c_i · 2^i`: the value whose bit `i` is `c i` for `i < n` (R122). -/
def ofBits : (n : Nat) → (c : Nat → Bool) → Nat
  | 0, _ => 0
  | n + 1, c => ofBits n c + (c n).toNat * 2 ^ n

/-- `c_0 ⊕ … ⊕ c_{n−1}`. -/
def xorBelow : (n : Nat) → (c : Nat → Bool) → Bool
  | 0, _ => false
  | n + 1, c => xor (xorBelow n c) (c n)

/-- Bit `i` of the codeword of `m`: `w_r ⊕ (bit_0(i) & w_0) ⊕ … ⊕ (bit_{r−1}(i) & w_{r−1})` with `w_j = bit_j(m)`
(R111). -/
def codewordBit (r m i : Nat) : Bool :=
  xor (m.testBit r) (xorBelow r fun j => i.testBit j && m.testBit j)

/-- `encode(r, m)` (R111). -/
def rmEncode (r m : Nat) : Nat := ofBits (2 ^ r) (codewordBit r m)

/-- `decode(r, c)` (R116): `w_r` is bit 0; the word is complemented over 2^r bits when it is 1; `w_j` is bit 2^j of the
result. -/
def rmDecode (r c : Nat) : Nat :=
  let wr := c.testBit 0
  let c' := if wr then c ^^^ (2 ^ 2 ^ r - 1) else c
  ofBits r (fun j => c'.testBit (2 ^ j)) + wr.toNat * 2 ^ r

/-- R113. -/
def execEnc (vd : VReg) (arg : Word) (s : State) : Outcome :=
  match s.param? with
  | none => raise .notConfigured (encode (.enc vd arg)) s
  | some r => respond 0 (s.setV vd ⟨2 ^ r, rmEncode r (messageOperand r arg.toNat)⟩)

/-- R117. -/
def execDec (va : VReg) (arg : Word) (s : State) : Outcome :=
  match s.param? with
  | none => raise .notConfigured (encode (.dec va arg)) s
  | some r => respond (zext32 (rmDecode r (wordOperand r (s.v va)))) s

end Sys2Proof.Machine
end

