-- ==== Sys2Proof/Machine/Hadamard.lean ====
section
/-! DEFINITION. The Hadamard transform engine (spec/43_hadamard.md): the transform of R141 with the corrected butterfly
(90_conflicts.md C1), the peak search, and `FHT`, `FRD`, `FMAX`, `UNALTER`. -/

namespace Sys2Proof.Machine

/-- The antipodal mapping: bit 0 to +1, bit 1 to −1 (R141 step 1). -/
def antipodal (r c : Nat) : List Int := (List.range (2 ^ r)).map fun i => 1 - 2 * ((c.testBit i).toNat : Int)

/-- One butterfly round at bit `n`; every new entry is computed from the previous round's list (R141 step 2, R154). -/
def butterfly (n : Nat) (F : List Int) : List Int :=
  (List.range F.length).map fun i =>
    if i.testBit n then F.getD (i - 2 ^ n) 0 - F.getD i 0 else F.getD i 0 + F.getD (i + 2 ^ n) 0

/-- The rounds `n = r−1` down to 0 (R141 step 2). -/
def butterflies : (r : Nat) → List Int → List Int
  | 0, F => F
  | n + 1, F => butterflies n (butterfly n F)

/-- `wht(r, c)` (R141). -/
def wht (r c : Nat) : List Int := butterflies r (antipodal r c)

/-- The greatest absolute value of the coefficients (R146). -/
def maxMagnitude (F : List Int) : Nat := F.foldl (fun m x => max m x.natAbs) 0

/-- The lowest index whose absolute value is the greatest (R146); 0 for an empty list, which no state reached from
reset holds. -/
def peakIndex (F : List Int) : Nat := F.findIdx fun x => x.natAbs == maxMagnitude F

/-- The winning coefficient `F[pos]`. -/
def peakValue (F : List Int) : Int := F.getD (peakIndex F) 0

/-- The recovered message: `pos`, with bit r set if `F[pos] < 0` (R147). -/
def peakMessage (r : Nat) (F : List Int) : Nat := peakIndex F + (if peakValue F < 0 then 2 ^ r else 0)

/-- The distance metric `(2^r − |F[pos]|) / 2` (R148). -/
def peakDistance (r : Nat) (F : List Int) : Nat := (2 ^ r - (peakValue F).natAbs) / 2

/-- What a peak search writes to the result registers (R145). -/
def peakOf (r : Nat) (F : List Int) : Peak where
  pos := zext32 (peakIndex F)
  peak := sext32 (peakValue F)
  dist := zext32 (peakDistance r F)
  msg := zext32 (peakMessage r F)

/-- R143. -/
def execFht (va : VReg) (arg : Word) (s : State) : Outcome :=
  match s.param? with
  | none => raise .notConfigured (encode (.fht va arg)) s
  | some r => respond 0 (s.loadTransform r (wht r (wordOperand r (s.v va))))

/-- R144. `NO_RESULT` is checked before `BAD_INDEX` (60_exceptions.md R180). -/
def execFrd (arg : Word) (s : State) : Outcome :=
  match s.codec with
  | some ⟨r, some t⟩ =>
    if 2 ^ r ≤ arg.toNat then raise .badIndex (encode (.frd arg)) s
    else respond (sext32 (t.coeffs.getD arg.toNat 0)) s
  | some ⟨_, none⟩ => raise .noResult (encode (.frd arg)) s
  | none => raise .noResult (encode (.frd arg)) s

/-- R145. -/
def execFmax (arg : Word) (s : State) : Outcome :=
  match s.codec with
  | some ⟨r, some t⟩ => respond (zext32 (peakMessage r t.coeffs)) (s.loadPeak r t.coeffs (peakOf r t.coeffs))
  | some ⟨_, none⟩ => raise .noResult (encode (.fmax arg)) s
  | none => raise .noResult (encode (.fmax arg)) s

/-- R149. -/
def execUnalter (vd va : VReg) (arg : Word) (s : State) : Outcome :=
  match s.param? with
  | none => raise .notConfigured (encode (.unalter vd va arg)) s
  | some r =>
    let F := wht r (wordOperand r (s.v va))
    respond 0 ((s.loadPeak r F (peakOf r F)).setV vd ⟨2 ^ r, rmEncode r (peakMessage r F)⟩)

end Sys2Proof.Machine
end

