-- ==== Sys2Proof/Machine/Noise.lean ====
section
/-! DEFINITION. The noise-channel simulator `ALTER` and its LFSR (spec/42_noise.md). -/

namespace Sys2Proof.Machine

/-- `LFSR_MASK` (00_scope.md R8, R132). -/
def lfsrMask : Word := 0x80200003

/-- One step of the LFSR: a logical shift right by one, and the mask when the bit shifted out was 1 (R132). -/
def lfsrStep (s : Word) : Word :=
  let s' := s >>> 1
  if s.getLsbD 0 then s' ^^^ lfsrMask else s'

/-- `step^n`. -/
def lfsrSteps : Nat → Word → Word
  | 0, s => s
  | n + 1, s => lfsrSteps n (lfsrStep s)

/-- Drawing one sample advances the LFSR sixteen steps (R133). -/
def lfsrDraw (s : Word) : Word := lfsrSteps 16 s

/-- The sample is the low 16 bits of the new state (R133). -/
def sampleOf (s : Word) : Nat := s.toNat % 2 ^ 16

/-- The channel's registers while a vector passes: the LFSR, the word so far, the flips so far (R131). -/
structure Channel where
  lfsr : Word
  out : Nat
  flips : Nat
deriving DecidableEq, Repr

/-- One bit position of the channel: draw a sample, flip bit `i` if it is below the threshold (R131). -/
def channelBit (threshold i : Nat) (c : Channel) : Channel :=
  let s := lfsrDraw c.lfsr
  if sampleOf s < threshold then ⟨s, c.out ^^^ 2 ^ i, c.flips + 1⟩ else ⟨s, c.out, c.flips⟩

/-- The positions 0 to `len − 1`, in this order (R131). -/
def channel (threshold : Nat) : (len : Nat) → Channel → Channel
  | 0, c => c
  | len + 1, c => channelBit threshold len (channel threshold len c)

/-- R131. -/
def execAlter (vd va : VReg) (arg : Word) (s : State) : Outcome :=
  if 65536 < arg.toNat then raise .invalidParameter (encode (.alter vd va arg)) s
  else
    let x := s.v va
    let c := channel arg.toNat x.len ⟨s.lfsr, x.val, 0⟩
    respond 0 { s.setV vd ⟨x.len, c.out⟩ with lfsr := c.lfsr, flips := zext32 c.flips }

end Sys2Proof.Machine
end

