-- ==== Sys2Proof/Machine/System.lean ====
section
/-! DEFINITION. The system commands `NOP`, `CSRR`, `CSRW` (spec/44_system.md). -/

namespace Sys2Proof.Machine

/-- `ID_VALUE` (10_state.md R29). -/
def idValue : Word := 0x524D0001

/-- `CAP`: [4:0] `R_MAX`, [11:8] `NV` (R28, R29). -/
def State.capValue (s : State) : Word := zext32 (s.rMax + Config.numVectors * 2 ^ 8)

/-- A result register, or `NO_RESULT` while `MVALID = 0` (R33, R161). -/
def State.readResult (s : State) (sel : Peak → Word) : Except Error Word :=
  match s.peak? with
  | some p => .ok (sel p)
  | none => .error .noResult

/-- The value of a control register, or the error its read raises (R28, R161). -/
def State.readCsr (s : State) : Csr → Except Error Word
  | .id => .ok idValue
  | .cap => .ok s.capValue
  | .r =>
    match s.param? with
    | some r => .ok (zext32 r)
    | none => .error .notConfigured
  | .lfsr => .ok s.lfsr
  | .status => .ok s.statusWord
  | .pos => s.readResult (·.pos)
  | .peak => s.readResult (·.peak)
  | .dist => s.readResult (·.dist)
  | .msg => s.readResult (·.msg)
  | .flips => .ok s.flips
  | .ecmd => .ok s.ecmd
  | .earg => .ok s.earg

/-- The state after a write of a control register, or the error the write raises; a read-only register refuses every
write (R28, R162). -/
def State.writeCsr (s : State) (c : Csr) (arg : Word) : Except Error State :=
  match c with
  | .r => if s.rMax < arg.toNat then .error .invalidParameter else .ok (s.configure arg.toNat)
  | .lfsr => if arg = 0 then .error .invalidParameter else .ok { s with lfsr := arg }
  | .status => .ok (if arg.getLsbD 3 then s.clearError else s)
  | .id | .cap | .pos | .peak | .dist | .msg | .flips | .ecmd | .earg => .error .illegalCommand

/-- R160. -/
def execNop (_arg : Word) (s : State) : Outcome := respond 0 s

/-- R161. -/
def execCsrr (n : BitVec 12) (arg : Word) (s : State) : Outcome :=
  match Csr.ofNumber n with
  | none => raise .illegalCommand (encode (.csrr n arg)) s
  | some c =>
    match s.readCsr c with
    | .ok d => respond d s
    | .error e => raise e (encode (.csrr n arg)) s

/-- R162. -/
def execCsrw (n : BitVec 12) (arg : Word) (s : State) : Outcome :=
  match Csr.ofNumber n with
  | none => raise .illegalCommand (encode (.csrw n arg)) s
  | some c =>
    match s.writeCsr c arg with
    | .ok t => respond 0 t
    | .error e => raise e (encode (.csrw n arg)) s

end Sys2Proof.Machine
end

