-- ==== Sys2Proof/Machine/Dispatch.lean ====
section
/-! DEFINITION. One arm per constructor of Instr: a direct call of its meaning. -/

namespace Sys2Proof.Machine

def exec (i : Instr) (s : State) : Host.Outcome State Fault Refusal :=
  match i with
  | .nop arg => Sys2Proof.Machine.execNop arg s
  | .csrr n arg => Sys2Proof.Machine.execCsrr n arg s
  | .csrw n arg => Sys2Proof.Machine.execCsrw n arg s
  | .vnew vd arg => Sys2Proof.Machine.execVnew vd arg s
  | .vldw vd k arg => Sys2Proof.Machine.execVldw vd k arg s
  | .vrdw va k arg => Sys2Proof.Machine.execVrdw va k arg s
  | .vlen va arg => Sys2Proof.Machine.execVlen va arg s
  | .vget va arg => Sys2Proof.Machine.execVget va arg s
  | .vset vd arg => Sys2Proof.Machine.execVset vd arg s
  | .vclrb vd arg => Sys2Proof.Machine.execVclrb vd arg s
  | .vflip vd arg => Sys2Proof.Machine.execVflip vd arg s
  | .vnot vd va arg => Sys2Proof.Machine.execVnot vd va arg s
  | .vand vd va vb arg => Sys2Proof.Machine.execVand vd va vb arg s
  | .vor vd va vb arg => Sys2Proof.Machine.execVor vd va vb arg s
  | .enc vd arg => Sys2Proof.Machine.execEnc vd arg s
  | .dec va arg => Sys2Proof.Machine.execDec va arg s
  | .alter vd va arg => Sys2Proof.Machine.execAlter vd va arg s
  | .fht va arg => Sys2Proof.Machine.execFht va arg s
  | .frd arg => Sys2Proof.Machine.execFrd arg s
  | .fmax arg => Sys2Proof.Machine.execFmax arg s
  | .unalter vd va arg => Sys2Proof.Machine.execUnalter vd va arg s

end Sys2Proof.Machine
end

