-- ==== Sys2Proof/Machine/Port.lean ====
section
/-! DEFINITION. The command port, the response port and `rst` (spec/30_encoding.md R79 to R81; spec/70_reset_and_hazards.md
R200, R201): what the block does at one port event. -/

namespace Sys2Proof.Machine

/-- `exec : State → CMD → ARG → …` of 00_scope.md R6: the accepted beat is decoded and executed; a word the decoder
rejects raises `ILLEGAL_COMMAND` (R75, R172). -/
def execBeat (b : Beat) (s : State) : Outcome :=
  match decode b with
  | .ok i => exec i s
  | .error _ => raise .illegalCommand b s

/-- The reset event: the whole architectural state becomes the reset state and a pending response is dropped; the host's
side stays (R200, R201). -/
def State.resetEvent (s : State) : State := { State.resetOf s.rMax with inputs := s.inputs, taken := s.taken }

/-- The host takes the pending response (R81). -/
def State.transfer (r : Response) (s : State) : State := { s with rsp := none, taken := s.taken ++ [r] }

/-- What the host drives at the coming event; nothing once its list has run out. -/
def State.portIn (s : State) : PortIn := s.inputs.headD ⟨false, none, false⟩

/-- `cmd_ready`: no command is in flight and `rst = 0` (R81, R201). -/
def State.cmdReady (s : State) : Bool := !s.portIn.rst && s.rsp.isNone

/-- `rsp_valid` with `rsp_status` and `rsp_data`: the pending response, none while `rst = 1` (R81, R201). -/
def State.rspOut (s : State) : Option Response := if s.portIn.rst then none else s.rsp

/-- The state once the host's next drive has been taken off the list. -/
def State.popInput (s : State) : State := { s with inputs := s.inputs.tail }

/-- The beat accepted at the coming event: it is presented and the block is ready (R81). -/
def State.accepted (s : State) : Option Beat := if s.cmdReady then s.portIn.cmd else none

/-- The response transferred at the coming event: it is valid and the host is ready (R81). -/
def State.transferred (s : State) : Option Response := if s.portIn.rspReady then s.rspOut else none

/-- One port event. Reset beats every other event (R201); an accepted beat is executed and its response put on the
response port; a pending response is transferred when the host is ready and held unchanged otherwise; with nothing to do
the block holds its state (R191). -/
def portEvent (s : State) : Outcome :=
  if s.portIn.rst then .next s.popInput.resetEvent
  else
    match s.accepted with
    | some b => execBeat b s.popInput
    | none =>
      match s.transferred with
      | some r => .next (s.popInput.transfer r)
      | none => .next s.popInput

/-- The host presents the beat `b`, ready for a response. -/
def presentBeat (b : Beat) : PortIn := ⟨false, some b, true⟩

/-- The host presents nothing, ready for a response. -/
def takeResponse : PortIn := ⟨false, none, true⟩

/-- The host's side of a program: for each beat, present it, then take its response (R209). -/
def hostProgram : List Beat → List PortIn
  | [] => []
  | b :: bs => presentBeat b :: takeResponse :: hostProgram bs

/-- The state in which the block is ready and the host presents `b` at the next event. -/
def State.presenting (b : Beat) (s : State) : State := { s with rsp := none, inputs := presentBeat b :: s.inputs }

end Sys2Proof.Machine
end

