-- ==== Sys2Proof/Machine/Step.lean ====
section
/-! DEFINITION. The step function, and where the next command comes from. -/

namespace Sys2Proof.Machine

/-- One step: what the block does at one event on its ports. -/
def step (s : State) : Host.Outcome State Fault Refusal := portEvent s

/-- `s` with the beat of the given bits presented on a ready command port, so that the next step accepts and runs it. The
block fetches nothing (10_state.md R26): this is the host issuing one command (log entry 2). -/
def State.withFetchWord (s : State) (nbits w : Nat) : State := s.presenting (beatOfTableWord nbits w)

end Sys2Proof.Machine
end

