-- ==== Sys2Proof/Safety.lean ====
section
/-! DEFINITION. The terms statements are made in: the invariant of spec/10_state.md R39, frames, what raising and answering
mean, and the spec's mathematical notions (spec/00_scope.md R11, spec/41_codec.md R110, spec/43_hadamard.md R141). None
of the machine's definitions uses them. -/

namespace Sys2Proof.Machine

/-! ### The invariant of R39 -/

/-- R22: `len ≤ W` and `val < 2^len`. -/
def Vec.Ok (capacity : Nat) (x : Vec) : Prop := x.len ≤ capacity ∧ x.val < 2 ^ x.len

/-- R39 (g): the result registers are those of a peak search over `F` under `r`. -/
def Peak.Of (r : Nat) (F : List Int) (p : Peak) : Prop :=
  p.pos.toNat < 2 ^ r ∧
  p.peak = BitVec.ofInt 32 (F.getD p.pos.toNat 0) ∧
  p.msg.toNat = p.pos.toNat + (if F.getD p.pos.toNat 0 < 0 then 2 ^ r else 0) ∧
  p.dist.toNat = (2 ^ r - (F.getD p.pos.toNat 0).natAbs) / 2

/-- R38: the file holds the transform, under the current `R`, of some word; R39 (g) for the results. -/
def Transform.Ok (r : Nat) (t : Transform) : Prop :=
  (∃ c, c < 2 ^ 2 ^ r ∧ t.coeffs = wht r c) ∧ ∀ p, t.peak = some p → p.Of r t.coeffs

/-- R39 (c), and R38 for the coefficient file. -/
def Codec.Ok (rMax : Nat) (c : Codec) : Prop := c.r ≤ rMax ∧ ∀ t, c.transform = some t → t.Ok c.r

/-- The invariants of R39 with the legal range of `R_MAX` (00_scope.md R8) and of `FLIPS` (R34). (a) and (b) of R39 hold
of every State by its shape. -/
structure State.Inv (s : State) : Prop where
  /-- R8 -/
  legal : Config.LegalRMax s.rMax
  /-- (e) -/
  vectors : ∀ n, (s.v n).Ok s.capacity
  /-- (c), (g) -/
  codec : ∀ c, s.codec = some c → c.Ok s.rMax
  /-- (d) -/
  lfsr : s.lfsr ≠ 0
  /-- (f) -/
  record : s.err = false → s.cause = .ok
  /-- R34 -/
  flips : s.flips.toNat ≤ s.capacity

/-! ### Frames, answers, raises -/

/-- Every vector register but `vd` is unchanged. -/
def SameVectorsExcept (vd : VReg) (s t : State) : Prop := ∀ n, n ≠ vd → t.v n = s.v n

/-- Every vector register is unchanged. -/
def SameVectors (s t : State) : Prop := ∀ n, t.v n = s.v n

/-- `R`, the coefficient file, the result registers and their three flags are unchanged. -/
def SameCodec (s t : State) : Prop := t.codec = s.codec

/-- `LFSR` and `FLIPS` are unchanged. -/
def SameNoise (s t : State) : Prop := t.lfsr = s.lfsr ∧ t.flips = s.flips

/-- The trap record is unchanged. -/
def SameRecord (s t : State) : Prop := t.err = s.err ∧ t.cause = s.cause ∧ t.ecmd = s.ecmd ∧ t.earg = s.earg

/-- The instance's parameter and the host's side are unchanged. -/
def SameHost (s t : State) : Prop := t.rMax = s.rMax ∧ t.inputs = s.inputs ∧ t.taken = s.taken

/-- Of the architectural state only the vector register `vd` may have changed. -/
def OnlyVectorWritten (vd : VReg) (s t : State) : Prop :=
  SameVectorsExcept vd s t ∧ SameCodec s t ∧ SameNoise s t ∧ SameRecord s t ∧ SameHost s t

/-- The command was answered `OK` with the data `d` (30_encoding.md R79). -/
def Answers (t : State) (d : Word) : Prop := t.rsp = some ⟨.ok, d⟩

/-- The state after the beat `b` raised `e` in the state `s`: the trap record and the answer, nothing else (R176). -/
def Trapped (e : Error) (b : Beat) (s : State) : State :=
  { s with err := true, cause := .error e, ecmd := b.cmd, earg := b.arg, rsp := some ⟨.error e, 0⟩ }

/-- The instruction raises `e` in the state `s`. -/
def Raises (i : Instr) (e : Error) (s : State) : Prop := exec i s = .next (Trapped e (encode i) s)

/-- The fields of the instruction's command word (R71): opcode, `vd`, `va`, `vb`, `imm12`. -/
def HasFields (i : Instr) (f : Fields) : Prop := Fields.ofCmd (encode i).cmd = f

/-- The states agree in everything but the trap record. -/
def SameButRecord (s t : State) : Prop :=
  t = { s with err := t.err, cause := t.cause, ecmd := t.ecmd, earg := t.earg }

/-! ### Legal command words (30_encoding.md R75) -/

/-- The fields a command's format uses besides `op` (R72). -/
structure FormatRow where
  op : BitVec 8
  usesVd : Bool
  usesVa : Bool
  usesVb : Bool
  usesImm : Bool
deriving DecidableEq, Repr

/-- The opcodes of R74, each with its format's row of R72. -/
def formatTable : List FormatRow :=
  [⟨0x00, false, false, false, false⟩, ⟨0x01, false, false, false, true⟩, ⟨0x02, false, false, false, true⟩,
   ⟨0x10, true, false, false, false⟩, ⟨0x11, true, false, false, true⟩, ⟨0x12, false, true, false, true⟩,
   ⟨0x13, false, true, false, false⟩, ⟨0x14, false, true, false, false⟩, ⟨0x15, true, false, false, false⟩,
   ⟨0x16, true, false, false, false⟩, ⟨0x17, true, false, false, false⟩] ++
  [⟨0x18, true, true, false, false⟩, ⟨0x19, true, true, true, false⟩, ⟨0x1A, true, true, true, false⟩,
   ⟨0x20, true, false, false, false⟩, ⟨0x21, false, true, false, false⟩, ⟨0x30, true, true, false, false⟩,
   ⟨0x40, false, true, false, false⟩, ⟨0x41, false, false, false, false⟩, ⟨0x42, false, false, false, false⟩,
   ⟨0x43, true, true, false, false⟩]

/-- A register field: at most 3 where the format uses it, zero where it does not (R75 (b), (c)). -/
def RegisterFieldLegal (used : Bool) (field : BitVec 4) : Prop := if used then field.toNat ≤ 3 else field = 0

/-- A command word is legal: the conditions (a) to (e) of R75. -/
def LegalCommand (cmd : Word) : Prop :=
  let f := Fields.ofCmd cmd
  ∃ row ∈ formatTable, f.op = row.op ∧
    RegisterFieldLegal row.usesVd f.vd ∧ RegisterFieldLegal row.usesVa f.va ∧ RegisterFieldLegal row.usesVb f.vb ∧
    (row.usesImm = false → f.imm12 = 0) ∧
    (f.op = 0x01 ∨ f.op = 0x02 → f.imm12.toNat ≤ 0x00B) ∧
    (f.op = 0x02 → f.imm12 = 0x002 ∨ f.imm12 = 0x003 ∨ f.imm12 = 0x004)

/-! ### Who raises what (60_exceptions.md R179, R180) -/

/-- `some e` when the condition holds. -/
def errorIf (e : Error) (cond : Prop) [Decidable cond] : Option Error := if cond then some e else none

/-- The error an instruction raises in a state, none when it ends `OK`: the table of R179 with the priority of R180. -/
def expectedError (i : Instr) (s : State) : Option Error :=
  match i with
  | .nop _ => none
  | .csrr n _ =>
    (errorIf .illegalCommand (0x00B < n.toNat)).orElse fun _ =>
      (errorIf .notConfigured (n = 0x002 ∧ s.rvalid = false)).orElse fun _ =>
        errorIf .noResult ((n = 0x005 ∨ n = 0x006 ∨ n = 0x007 ∨ n = 0x008) ∧ s.mvalid = false)
  | .csrw n arg =>
    (errorIf .illegalCommand (¬ (n = 0x002 ∨ n = 0x003 ∨ n = 0x004))).orElse fun _ =>
      errorIf .invalidParameter ((n = 0x002 ∧ s.rMax < arg.toNat) ∨ (n = 0x003 ∧ arg = 0))
  | .vnew _ arg => errorIf .invalidParameter (2 ^ s.rMax < arg.toNat)
  | .vldw _ k _ => errorIf .badIndex (max 1 (2 ^ s.rMax / 32) ≤ k.toNat)
  | .vrdw _ k _ => errorIf .badIndex (max 1 (2 ^ s.rMax / 32) ≤ k.toNat)
  | .vlen _ _ => none
  | .vget va arg => errorIf .badIndex ((s.v va).len ≤ arg.toNat)
  | .vset vd arg => errorIf .badIndex ((s.v vd).len ≤ arg.toNat)
  | .vclrb vd arg => errorIf .badIndex ((s.v vd).len ≤ arg.toNat)
  | .vflip vd arg => errorIf .badIndex ((s.v vd).len ≤ arg.toNat)
  | .vnot _ _ _ => none
  | .vand _ va vb _ => errorIf .lenMismatch ((s.v va).len ≠ (s.v vb).len)
  | .vor _ va vb _ => errorIf .lenMismatch ((s.v va).len ≠ (s.v vb).len)
  | .enc _ _ => errorIf .notConfigured (s.rvalid = false)
  | .dec _ _ => errorIf .notConfigured (s.rvalid = false)
  | .alter _ _ arg => errorIf .invalidParameter (65536 < arg.toNat)
  | .fht _ _ => errorIf .notConfigured (s.rvalid = false)
  | .frd arg =>
    match s.fvalid, s.param? with
    | true, some r => errorIf .badIndex (2 ^ r ≤ arg.toNat)
    | _, _ => some .noResult
  | .fmax _ => errorIf .noResult (s.fvalid = false)
  | .unalter _ _ _ => errorIf .notConfigured (s.rvalid = false)

/-- The vector register an instruction writes, if any: the table of 10_state.md R23. -/
def writtenVector : Instr → Option VReg
  | .nop _ => none
  | .csrr _ _ => none
  | .csrw _ _ => none
  | .vnew vd _ => some vd
  | .vldw vd _ _ => some vd
  | .vrdw _ _ _ => none
  | .vlen _ _ => none
  | .vget _ _ => none
  | .vset vd _ => some vd
  | .vclrb vd _ => some vd
  | .vflip vd _ => some vd
  | .vnot vd _ _ => some vd
  | .vand vd _ _ _ => some vd
  | .vor vd _ _ _ => some vd
  | .enc vd _ => some vd
  | .dec _ _ => none
  | .alter vd _ _ => some vd
  | .fht _ _ => none
  | .frd _ => none
  | .fmax _ => none
  | .unalter vd _ _ => some vd

/-- What a successful instruction does to the flags: the rows of 10_state.md R27. -/
inductive FlagEvent where
  /-- `CSRW R` -/
  | configure
  /-- `FHT` -/
  | transform
  /-- `FMAX` -/
  | peak
  /-- `UNALTER` -/
  | transformAndPeak
  /-- `CSRW STATUS` with ARG bit 3 = 1 -/
  | clearErr
  | none
deriving DecidableEq, Repr

/-- The row of R27 an instruction is named in. -/
def flagEvent : Instr → FlagEvent
  | .nop _ => .none
  | .csrr _ _ => .none
  | .csrw n arg => if n = 0x002 then .configure else if n = 0x004 ∧ arg.getLsbD 3 = true then .clearErr else .none
  | .vnew _ _ => .none
  | .vldw _ _ _ => .none
  | .vrdw _ _ _ => .none
  | .vlen _ _ => .none
  | .vget _ _ => .none
  | .vset _ _ => .none
  | .vclrb _ _ => .none
  | .vflip _ _ => .none
  | .vnot _ _ _ => .none
  | .vand _ _ _ _ => .none
  | .vor _ _ _ _ => .none
  | .enc _ _ => .none
  | .dec _ _ => .none
  | .alter _ _ _ => .none
  | .fht _ _ => .transform
  | .frd _ => .none
  | .fmax _ => .peak
  | .unalter _ _ _ => .transformAndPeak

/-! ### Runs of a program (70_reset_and_hazards.md R209) -/

/-- The program `bs`, run beat by beat from `s` on a ready block, gives the responses `rs` and ends in `t`, ready again. -/
inductive Runs : List Beat → State → List Response → State → Prop where
  | nil (s : State) : Runs [] s [] s
  | cons {b : Beat} {bs : List Beat} {s t u : State} {r : Response} {rs : List Response} :
      execBeat b s = .next t → t.rsp = some r → Runs bs { t with rsp := none } rs u → Runs (b :: bs) s (r :: rs) u

/-! ### The code, the channel and the transform as mathematics -/

/-- The number of one bits of `v` below position `n` (R11). -/
def onesBelow (n v : Nat) : Nat := ((Finset.range n).filter fun i => v.testBit i = true).card

/-- The Hamming distance of two `n`-bit words: the number of positions at which they differ (R11). -/
def hammingDistance (n a b : Nat) : Nat := ((Finset.range n).filter fun i => a.testBit i ≠ b.testBit i).card

/-- `C` is the codeword of the message `m`: the defining relation of R110. -/
def IsCodewordOf (r m C : Nat) : Prop :=
  C < 2 ^ 2 ^ r ∧
    ∀ i, i < 2 ^ r →
      (C.testBit i).toNat =
        ((m.testBit r).toNat + ∑ j ∈ Finset.range r, (i.testBit j).toNat * (m.testBit j).toNat) % 2

/-- The closed form of a transform coefficient (R141). -/
def walshSum (r c k : Nat) : Int :=
  ∑ i ∈ Finset.range (2 ^ r), (1 - 2 * ((c.testBit i).toNat : Int)) * (-1) ^ onesBelow r (k &&& i)

/-- The sample `ALTER` draws for position `i` from the LFSR value `s`: the low 16 bits after `16·(i+1)` steps (R133). -/
def noiseSample (s : Word) (i : Nat) : Nat := (lfsrStep^[16 * (i + 1)] s).toNat % 65536

end Sys2Proof.Machine
end

