-- ==== Sys2Proof/Certificates/Slice0/Obligations.lean ====
section
/-! DEFINITION. The statements for the provers. Each docstring names the rule of spec/ it formalises. Statements about a
command hold in every state and for every operand, in every instance (`rMax` is the state's own field, never a fixed
number), unless a hypothesis says otherwise. -/

open Sys2Proof Sys2Proof.Machine

/-! ### Encoding -/

/-- 30_encoding.md, sections 1 to 3 and 8: no bit of an instruction is lost by encoding it. -/
def Obligations.DecodeOfEncodeIsTheInstruction : Prop := ∀ i : Instr, decode (encode i) = .ok i

/-- 30_encoding.md, sections 4 and 8: a beat the decoder reads is the encoding of what it reads, so two beats never
decode to one instruction. -/
def Obligations.EncodeOfDecodeIsTheBeat : Prop := ∀ (b : Beat) (i : Instr), decode b = .ok i → encode i = b

/-- 30_encoding.md R77: a word is decoded exactly when it matches a row of the opcode table, to an instruction of that
row, and no word matches two rows. -/
def Obligations.DecoderAcceptsExactlyTheTableRows : Prop :=
  ∀ b : Beat,
    (∀ i, decode b = .ok i → ∃ row ∈ opcodeTable, row.matches b.cmd = true ∧ row.mnemonic = i.mnemonic) ∧
    (∀ row ∈ opcodeTable, row.matches b.cmd = true → ∃ i, decode b = .ok i ∧ i.mnemonic = row.mnemonic) ∧
    (∀ row ∈ opcodeTable, ∀ row' ∈ opcodeTable, row.matches b.cmd = true → row'.matches b.cmd = true → row = row')

/-- 30_encoding.md R75, 60_exceptions.md R172. -/
def Obligations.IllegalCommandIsDecidedByTheWordAlone : Prop :=
  ∀ (b : Beat) (s : State),
    (LegalCommand b.cmd ↔ ∃ i, decode b = .ok i ∧ i.wellFormed = true) ∧
    (¬ LegalCommand b.cmd → execBeat b s = .next (Trapped .illegalCommand b s)) ∧
    (LegalCommand b.cmd → ∃ t r, execBeat b s = .next t ∧ t.rsp = some r ∧ r.status ≠ .error .illegalCommand)

/-- 95_test_vectors.md section 2.1: words written out from R82 decode to the commands they stand for. -/
def Obligations.WrittenOutWordsDecode : Prop :=
  decode ⟨0x02000003, 0xDEADBEEF⟩ = .ok (.csrw 0x003 0xDEADBEEF) ∧
  decode ⟨0x11200001, 0xFFFFFFFF⟩ = .ok (.vldw .V2 1 0xFFFFFFFF) ∧
  decode ⟨0x19201000, 0x00000000⟩ = .ok (.vand .V2 .V0 .V1 0) ∧
  decode ⟨0x20300000, 0x00000007⟩ = .ok (.enc .V3 7) ∧
  decode ⟨0x30100000, 0x00004000⟩ = .ok (.alter .V1 .V0 0x4000) ∧
  decode ⟨0x43330000, 0x00000000⟩ = .ok (.unalter .V3 .V3 0) ∧
  decode ⟨0x10400000, 0x00000008⟩ = .error .noSuchRegister ∧
  decode ⟨0x44000000, 0x00000000⟩ = .error .reservedOpcode ∧
  decode ⟨0x41000001, 0x00000000⟩ = .error .unusedFieldNotZero

/-! ### The ports

`inputs` (what the host drives next) and `taken` (what it has received) are the model's own fields (log entry 2): what a
statement says of them is the model's choice, not the spec's. -/

/-- 30_encoding.md R81: on a ready command port, with `rst` low, the presented beat is accepted and the step is the
execution of the instruction it decodes to, in the state with the host's drive of this event taken off its list (log
entry 2). -/
def Obligations.StepRunsTheDecodedCommand : Prop :=
  ∀ (s : State) (p : PortIn) (rest : List PortIn) (b : Beat) (i : Instr),
    s.inputs = p :: rest → p.rst = false → p.cmd = some b → s.rsp = none → decode b = .ok i →
      step s = exec i { s with inputs := rest }

/-- 30_encoding.md section 4: a presented word the decoder rejects raises `ILLEGAL_COMMAND`, recorded with the whole
beat. -/
def Obligations.StepRaisesOnARejectedWord : Prop :=
  ∀ (s : State) (p : PortIn) (rest : List PortIn) (b : Beat) (why : Reject),
    s.inputs = p :: rest → p.rst = false → p.cmd = some b → s.rsp = none → decode b = .error why →
      step s = .next { s with
        inputs := rest, err := true, cause := .error .illegalCommand, ecmd := b.cmd, earg := b.arg,
        rsp := some ⟨.error .illegalCommand, 0⟩ }

/-- 30_encoding.md section 7: while a response is pending no beat is accepted, and the response is held unchanged until
the host takes it; what the host has taken is in order (log entry 2; a beat presented meanwhile is not kept, log entry
4). -/
def Obligations.PendingResponseWaitsForTheHost : Prop :=
  ∀ (s : State) (p : PortIn) (rest : List PortIn) (r : Response),
    s.inputs = p :: rest → p.rst = false → s.rsp = some r →
      (p.rspReady = false → step s = .next { s with inputs := rest }) ∧
      (p.rspReady = true → step s = .next { s with inputs := rest, rsp := none, taken := s.taken ++ [r] })

/-- 60_exceptions.md R191: between commands the block holds its state; with the host's list run out it drives nothing (log
entry 2). -/
def Obligations.IdleBlockHoldsItsState : Prop :=
  ∀ s : State,
    (s.inputs = [] → step s = .next s) ∧
    (∀ p rest, s.inputs = p :: rest → p.rst = false → p.cmd = none → s.rsp = none →
      step s = .next { s with inputs := rest })

/-- 70_reset_and_hazards.md R200, R201: reset beats every other event and does not depend on the state before. The host's
side and the instance's `R_MAX` stay (log entries 1, 2). -/
def Obligations.ResetEventGivesTheResetState : Prop :=
  ∀ (s : State) (p : PortIn) (rest : List PortIn),
    s.inputs = p :: rest → p.rst = true →
      step s = .next { State.resetOf s.rMax with inputs := rest, taken := s.taken } ∧
      s.cmdReady = false ∧ s.rspOut = none

/-- 10_state.md R42, for every instance; the command port is ready whatever the host drives next, but for `rst`. -/
def Obligations.ResetStateHoldsTheTabulatedValues : Prop :=
  ∀ rMax : Nat,
    let s := State.resetOf rMax
    (∀ n, s.v n = ⟨0, 0⟩) ∧ s.param? = none ∧ s.rvalid = false ∧ s.lfsr = 0x00000001 ∧
    s.statusWord = 0x00000000 ∧ s.fvalid = false ∧ s.mvalid = false ∧ s.err = false ∧ s.cause = .ok ∧
    s.peak? = none ∧ s.flips = 0 ∧ s.ecmd = 0 ∧ s.earg = 0 ∧ s.transform? = none ∧
    s.rsp = none ∧ ∀ p rest, { s with inputs := p :: rest }.cmdReady = !p.rst

/-- 30_encoding.md R79 (one response a command, data 0 when it raised); the host's side is untouched. -/
def Obligations.EveryCommandIsAnsweredOnce : Prop :=
  ∀ (b : Beat) (s : State), ∃ t r,
    execBeat b s = .next t ∧ t.rsp = some r ∧ (∀ e, r.status = .error e → r.data = 0) ∧ SameHost s t

/-- 70_reset_and_hazards.md R212, 60_exceptions.md R184: the step is total and nothing stops the machine. -/
def Obligations.StepAlwaysAnswersANextState : Prop := ∀ s : State, ∃ t, step s = .next t

/-- 20_memory.md R58, 70_reset_and_hazards.md R209: the handshake machine run over a program does the same as its
commands executed one after the other on a ready block, answers one response a command and in order, and leaves the
same end state. The host's drive of a program is the model's (log entry 2). -/
def Obligations.ProgramRunIsTheFoldOfItsCommands : Prop :=
  ∀ (bs : List Beat) (s : State), s.rsp = none → s.inputs = [] →
    ∃ rs t, Runs bs s rs t ∧ rs.length = bs.length ∧
      core.run (2 * bs.length) { s with inputs := hostProgram bs } = .next { t with taken := s.taken ++ rs }

/-! ### Errors -/

/-- 60_exceptions.md R176: a raising command leaves the state before it plus the trap record; a command that ends `OK`
does not touch the record, but for `CSRW STATUS` with bit 3 set. -/
def Obligations.RaisingWritesOnlyTheTrapRecord : Prop :=
  ∀ (b : Beat) (s t : State) (r : Response), execBeat b s = .next t → t.rsp = some r →
    (∀ e, r.status = .error e → t = Trapped e b s) ∧
    (r.status = .ok →
      t.ecmd = s.ecmd ∧ t.earg = s.earg ∧
        ((t.err = s.err ∧ t.cause = s.cause) ∨
          (∃ a, decode b = .ok (.csrw 0x004 a) ∧ a.getLsbD 3 = true ∧ t.err = false ∧ t.cause = .ok)))

/-- 60_exceptions.md R179 with the priority of R180: each instruction raises exactly the error of its row, under exactly
the row's condition, and otherwise ends `OK`. -/
def Obligations.ErrorsFollowTheTable : Prop :=
  ∀ (i : Instr) (s : State),
    (∀ e, expectedError i s = some e → Raises i e s) ∧
    (expectedError i s = none → ∃ t d, exec i s = .next t ∧ Answers t d)

/-- 60_exceptions.md section 1, "The record is informational only": from two states that differ only in the trap record
a command leads to states that differ only in the trap record, with the same response; only the three reads of the record
itself are excepted. -/
def Obligations.TrapRecordInfluencesNothing : Prop :=
  ∀ (i : Instr) (s s' : State), SameButRecord s s' →
    (∀ n a, i = .csrr n a → n ≠ 0x004 ∧ n ≠ 0x00A ∧ n ≠ 0x00B) →
      ∃ t t', exec i s = .next t ∧ exec i s' = .next t' ∧ SameButRecord t t'

/-- 60_exceptions.md section 1, "Once `RVALID` is 1 only reset clears it": then `NOT_CONFIGURED` cannot occur either. -/
def Obligations.OnlyResetClearsRvalid : Prop :=
  ∀ s t : State, s.rvalid = true → s.portIn.rst = false → step s = .next t →
    t.rvalid = true ∧ ∀ i : Instr, ¬ Raises i .notConfigured t

/-! ### System commands -/

/-- 44_system.md R160. -/
def Obligations.NopDoesNothing : Prop :=
  ∀ (arg : Word) (s : State),
    encode (.nop arg) = ⟨0x00000000, arg⟩ ∧
    exec (.nop arg) s = .next { s with rsp := some ⟨.ok, 0⟩ } ∧
    (∀ cmd : Word, (Fields.ofCmd cmd).op = 0x00 → cmd ≠ 0 →
      execBeat ⟨cmd, arg⟩ s = .next (Trapped .illegalCommand ⟨cmd, arg⟩ s))

/-- 44_system.md R161, with the control register map of 10_state.md R28. -/
def Obligations.CsrrReadsTheControlRegister : Prop :=
  ∀ (n : BitVec 12) (arg : Word) (s : State),
    HasFields (.csrr n arg) ⟨0x01, 0, 0, 0, n⟩ ∧
    (∀ cmd : Word, (Fields.ofCmd cmd).op = 0x01 →
      ((Fields.ofCmd cmd).vd ≠ 0 ∨ (Fields.ofCmd cmd).va ≠ 0 ∨ (Fields.ofCmd cmd).vb ≠ 0) →
        execBeat ⟨cmd, arg⟩ s = .next (Trapped .illegalCommand ⟨cmd, arg⟩ s)) ∧
    (0x00B < n.toNat → Raises (.csrr n arg) .illegalCommand s) ∧
    (n = 0x002 → s.rvalid = false → Raises (.csrr n arg) .notConfigured s) ∧
    (n = 0x005 ∨ n = 0x006 ∨ n = 0x007 ∨ n = 0x008 → s.mvalid = false → Raises (.csrr n arg) .noResult s) ∧
    (n.toNat ≤ 0x00B → (n = 0x002 → s.rvalid = true) →
      (n = 0x005 ∨ n = 0x006 ∨ n = 0x007 ∨ n = 0x008 → s.mvalid = true) →
      ∃ d, exec (.csrr n arg) s = .next { s with rsp := some ⟨.ok, d⟩ } ∧
        (n = 0x000 → d = 0x524D0001) ∧
        (n = 0x001 → d = BitVec.ofNat 32 (0x400 + s.rMax)) ∧
        (n = 0x002 → ∀ r, s.param? = some r → d = BitVec.ofNat 32 r) ∧
        (n = 0x003 → d = s.lfsr) ∧
        (n = 0x004 → d.toNat =
          s.rvalid.toNat + 2 * s.fvalid.toNat + 4 * s.mvalid.toNat + 8 * s.err.toNat + 16 * s.cause.code) ∧
        (n = 0x005 → ∀ p, s.peak? = some p → d = p.pos) ∧
        (n = 0x006 → ∀ p, s.peak? = some p → d = p.peak) ∧
        (n = 0x007 → ∀ p, s.peak? = some p → d = p.dist) ∧
        (n = 0x008 → ∀ p, s.peak? = some p → d = p.msg) ∧
        (n = 0x009 → d = s.flips) ∧
        (n = 0x00A → d = s.ecmd) ∧
        (n = 0x00B → d = s.earg))

/-- 44_system.md R162. -/
def Obligations.CsrwWritesTheControlRegister : Prop :=
  ∀ (n : BitVec 12) (arg : Word) (s : State),
    HasFields (.csrw n arg) ⟨0x02, 0, 0, 0, n⟩ ∧
    (∀ cmd : Word, (Fields.ofCmd cmd).op = 0x02 →
      ((Fields.ofCmd cmd).vd ≠ 0 ∨ (Fields.ofCmd cmd).va ≠ 0 ∨ (Fields.ofCmd cmd).vb ≠ 0) →
        execBeat ⟨cmd, arg⟩ s = .next (Trapped .illegalCommand ⟨cmd, arg⟩ s)) ∧
    (n ≠ 0x002 → n ≠ 0x003 → n ≠ 0x004 → Raises (.csrw n arg) .illegalCommand s) ∧
    (n = 0x002 → s.rMax < arg.toNat → Raises (.csrw n arg) .invalidParameter s) ∧
    (n = 0x002 → arg.toNat ≤ s.rMax → ∃ t, exec (.csrw n arg) s = .next t ∧
      t = { s with codec := some ⟨arg.toNat, none⟩, rsp := some ⟨.ok, 0⟩ } ∧
      t.param? = some arg.toNat ∧ t.rvalid = true ∧ t.fvalid = false ∧ t.mvalid = false) ∧
    (n = 0x003 → arg = 0 → Raises (.csrw n arg) .invalidParameter s) ∧
    (n = 0x003 → arg ≠ 0 → exec (.csrw n arg) s = .next { s with lfsr := arg, rsp := some ⟨.ok, 0⟩ }) ∧
    (n = 0x004 → exec (.csrw n arg) s = .next (if arg.getLsbD 3 = true
      then { s with err := false, cause := .ok, rsp := some ⟨.ok, 0⟩ } else { s with rsp := some ⟨.ok, 0⟩ }))

/-! ### The bit-vector unit -/

/-- 40_bitvector.md R91. -/
def Obligations.VnewCreatesTheZeroVector : Prop :=
  ∀ (vd : VReg) (arg : Word) (s : State),
    HasFields (.vnew vd arg) ⟨0x10, vd.toField, 0, 0, 0⟩ ∧
    (2 ^ s.rMax < arg.toNat → Raises (.vnew vd arg) .invalidParameter s) ∧
    (arg.toNat ≤ 2 ^ s.rMax → ∃ t, exec (.vnew vd arg) s = .next t ∧ Answers t 0 ∧
      t.v vd = ⟨arg.toNat, 0⟩ ∧ OnlyVectorWritten vd s t)

/-- 40_bitvector.md R92, as bits: word `k` is replaced, the other words keep their bits, nothing at or above `len`. -/
def Obligations.VldwWritesOneWord : Prop :=
  ∀ (vd : VReg) (k : BitVec 12) (arg : Word) (s : State),
    HasFields (.vldw vd k arg) ⟨0x11, vd.toField, 0, 0, k⟩ ∧
    (max 1 (2 ^ s.rMax / 32) ≤ k.toNat → Raises (.vldw vd k arg) .badIndex s) ∧
    (k.toNat < max 1 (2 ^ s.rMax / 32) → ∃ t, exec (.vldw vd k arg) s = .next t ∧ Answers t 0 ∧
      (t.v vd).len = (s.v vd).len ∧ (t.v vd).val < 2 ^ (t.v vd).len ∧
      (∀ i, i < (s.v vd).len → (t.v vd).val.testBit i =
        if i / 32 = k.toNat then arg.getLsbD (i % 32) else (s.v vd).val.testBit i) ∧
      OnlyVectorWritten vd s t)

/-- 40_bitvector.md R93, as bits. -/
def Obligations.VrdwReadsOneWord : Prop :=
  ∀ (va : VReg) (k : BitVec 12) (arg : Word) (s : State),
    HasFields (.vrdw va k arg) ⟨0x12, 0, va.toField, 0, k⟩ ∧
    (max 1 (2 ^ s.rMax / 32) ≤ k.toNat → Raises (.vrdw va k arg) .badIndex s) ∧
    (k.toNat < max 1 (2 ^ s.rMax / 32) → ∃ d, exec (.vrdw va k arg) s = .next { s with rsp := some ⟨.ok, d⟩ } ∧
      (∀ j, j < 32 → d.getLsbD j = (s.v va).val.testBit (32 * k.toNat + j)) ∧
      ((s.v va).val < 2 ^ (s.v va).len → ∀ j, (s.v va).len ≤ 32 * k.toNat + j → d.getLsbD j = false))

/-- 40_bitvector.md R94; the length always fits the answer. -/
def Obligations.VlenReadsTheLength : Prop :=
  ∀ (va : VReg) (arg : Word) (s : State),
    HasFields (.vlen va arg) ⟨0x13, 0, va.toField, 0, 0⟩ ∧
    ∃ d, exec (.vlen va arg) s = .next { s with rsp := some ⟨.ok, d⟩ } ∧
      d = BitVec.ofNat 32 (s.v va).len ∧ (s.Inv → d.toNat = (s.v va).len)

/-- 40_bitvector.md R96. -/
def Obligations.VgetReadsOneBit : Prop :=
  ∀ (va : VReg) (arg : Word) (s : State),
    HasFields (.vget va arg) ⟨0x14, 0, va.toField, 0, 0⟩ ∧
    ((s.v va).len ≤ arg.toNat → Raises (.vget va arg) .badIndex s) ∧
    (arg.toNat < (s.v va).len → exec (.vget va arg) s =
      .next { s with rsp := some ⟨.ok, if (s.v va).val.testBit arg.toNat = true then 1 else 0⟩ })

/-- 40_bitvector.md R97. -/
def Obligations.VsetSetsOneBit : Prop :=
  ∀ (vd : VReg) (arg : Word) (s : State),
    HasFields (.vset vd arg) ⟨0x15, vd.toField, 0, 0, 0⟩ ∧
    ((s.v vd).len ≤ arg.toNat → Raises (.vset vd arg) .badIndex s) ∧
    (arg.toNat < (s.v vd).len → ∃ t, exec (.vset vd arg) s = .next t ∧ Answers t 0 ∧
      (t.v vd).len = (s.v vd).len ∧
      (∀ i, (t.v vd).val.testBit i = if i = arg.toNat then true else (s.v vd).val.testBit i) ∧
      OnlyVectorWritten vd s t)

/-- 40_bitvector.md R98. -/
def Obligations.VclrbClearsOneBit : Prop :=
  ∀ (vd : VReg) (arg : Word) (s : State),
    HasFields (.vclrb vd arg) ⟨0x16, vd.toField, 0, 0, 0⟩ ∧
    ((s.v vd).len ≤ arg.toNat → Raises (.vclrb vd arg) .badIndex s) ∧
    (arg.toNat < (s.v vd).len → ∃ t, exec (.vclrb vd arg) s = .next t ∧ Answers t 0 ∧
      (t.v vd).len = (s.v vd).len ∧
      (∀ i, (t.v vd).val.testBit i = if i = arg.toNat then false else (s.v vd).val.testBit i) ∧
      OnlyVectorWritten vd s t)

/-- 40_bitvector.md R99. -/
def Obligations.VflipInvertsOneBit : Prop :=
  ∀ (vd : VReg) (arg : Word) (s : State),
    HasFields (.vflip vd arg) ⟨0x17, vd.toField, 0, 0, 0⟩ ∧
    ((s.v vd).len ≤ arg.toNat → Raises (.vflip vd arg) .badIndex s) ∧
    (arg.toNat < (s.v vd).len → ∃ t, exec (.vflip vd arg) s = .next t ∧ Answers t 0 ∧
      (t.v vd).len = (s.v vd).len ∧
      (∀ i, (t.v vd).val.testBit i =
        if i = arg.toNat then !(s.v vd).val.testBit i else (s.v vd).val.testBit i) ∧
      OnlyVectorWritten vd s t)

/-- 40_bitvector.md R100, in the lane view. The premise is the invariant R22 of the source register. -/
def Obligations.VnotComplementsEveryBit : Prop :=
  ∀ (vd va : VReg) (arg : Word) (s : State), (s.v va).val < 2 ^ (s.v va).len →
    HasFields (.vnot vd va arg) ⟨0x18, vd.toField, va.toField, 0, 0⟩ ∧
    ∃ t, exec (.vnot vd va arg) s = .next t ∧ Answers t 0 ∧
      (t.v vd).len = (s.v va).len ∧ (t.v vd).val < 2 ^ (t.v vd).len ∧
      (∀ i, i < (s.v va).len → (t.v vd).val.testBit i = !(s.v va).val.testBit i) ∧
      OnlyVectorWritten vd s t

/-- 40_bitvector.md R101, in the lane view. -/
def Obligations.VandCombinesBitwise : Prop :=
  ∀ (vd va vb : VReg) (arg : Word) (s : State),
    HasFields (.vand vd va vb arg) ⟨0x19, vd.toField, va.toField, vb.toField, 0⟩ ∧
    ((s.v va).len ≠ (s.v vb).len → Raises (.vand vd va vb arg) .lenMismatch s) ∧
    ((s.v va).len = (s.v vb).len → ∃ t, exec (.vand vd va vb arg) s = .next t ∧ Answers t 0 ∧
      (t.v vd).len = (s.v va).len ∧
      (∀ i, (t.v vd).val.testBit i = ((s.v va).val.testBit i && (s.v vb).val.testBit i)) ∧
      OnlyVectorWritten vd s t)

/-- 40_bitvector.md R102, in the lane view. -/
def Obligations.VorCombinesBitwise : Prop :=
  ∀ (vd va vb : VReg) (arg : Word) (s : State),
    HasFields (.vor vd va vb arg) ⟨0x1A, vd.toField, va.toField, vb.toField, 0⟩ ∧
    ((s.v va).len ≠ (s.v vb).len → Raises (.vor vd va vb arg) .lenMismatch s) ∧
    ((s.v va).len = (s.v vb).len → ∃ t, exec (.vor vd va vb arg) s = .next t ∧ Answers t 0 ∧
      (t.v vd).len = (s.v va).len ∧
      (∀ i, (t.v vd).val.testBit i = ((s.v va).val.testBit i || (s.v vb).val.testBit i)) ∧
      OnlyVectorWritten vd s t)

/-! ### The codec -/

/-- 41_codec.md R113: the result is the codeword, by the defining relation of R110, of the low r+1 bits of `ARG`. -/
def Obligations.EncWritesTheCodeword : Prop :=
  ∀ (vd : VReg) (arg : Word) (s : State),
    HasFields (.enc vd arg) ⟨0x20, vd.toField, 0, 0, 0⟩ ∧
    (s.rvalid = false → Raises (.enc vd arg) .notConfigured s) ∧
    (∀ r, s.param? = some r → ∃ t, exec (.enc vd arg) s = .next t ∧ Answers t 0 ∧
      (t.v vd).len = 2 ^ r ∧ IsCodewordOf r (arg.toNat % 2 ^ (r + 1)) (t.v vd).val ∧
      OnlyVectorWritten vd s t)

/-- 41_codec.md R117, with the closed form of R118 for every operand. The bound on r is the one R39 (c) and R8 give. -/
def Obligations.DecAnswersTheMessage : Prop :=
  ∀ (va : VReg) (arg : Word) (s : State),
    HasFields (.dec va arg) ⟨0x21, 0, va.toField, 0, 0⟩ ∧
    (s.rvalid = false → Raises (.dec va arg) .notConfigured s) ∧
    (∀ r, s.param? = some r → ∃ d, exec (.dec va arg) s = .next { s with rsp := some ⟨.ok, d⟩ } ∧
      (r ≤ 16 → d.toNat = rmDecode r ((s.v va).val % 2 ^ 2 ^ r) ∧ d.toNat < 2 ^ (r + 1) ∧
        d.getLsbD r = (s.v va).val.testBit 0 ∧
        ∀ j, j < r → d.getLsbD j = xor ((s.v va).val.testBit (2 ^ j)) ((s.v va).val.testBit 0)))

/-- 41_codec.md section 1 (R112): row r is all ones, row j < r has the bits i with `bit_j(i) = 1`, and a codeword is the
exclusive or of the rows its message selects. -/
def Obligations.EncodeIsXorOfGeneratorRows : Prop :=
  ∀ r : Nat,
    rmEncode r (2 ^ r) = 2 ^ 2 ^ r - 1 ∧
    (∀ j, j < r → ∀ i, i < 2 ^ r → (rmEncode r (2 ^ j)).testBit i = i.testBit j) ∧
    (∀ m, rmEncode r m =
      (List.range (r + 1)).foldl (fun x j => if m.testBit j then x ^^^ rmEncode r (2 ^ j) else x) 0)

/-- 41_codec.md section 1 (R115 (a)). -/
def Obligations.EncodeIsLinear : Prop :=
  ∀ r a b : Nat, rmEncode r (a ^^^ b) = rmEncode r a ^^^ rmEncode r b

/-- 41_codec.md section 1 (R115 (c), as corrected by 90_conflicts.md C2). -/
def Obligations.DistinctCodewordsAreFarApart : Prop :=
  ∀ r a b : Nat, a < 2 ^ (r + 1) → b < 2 ^ (r + 1) → a ≠ b →
    hammingDistance (2 ^ r) (rmEncode r a) (rmEncode r b) = if a ^^^ b = 2 ^ r then 2 ^ r else 2 ^ (r - 1)

/-- 41_codec.md R119, for the functions and for the commands. The bound on r is the one R39 (c) and R8 give. -/
def Obligations.DecodeInvertsEncode : Prop :=
  (∀ r m : Nat, m < 2 ^ (r + 1) → rmDecode r (rmEncode r m) = m) ∧
  (∀ (vd : VReg) (m a : Word) (s : State) (r : Nat), s.param? = some r → r ≤ 16 →
    ∃ t u, exec (.enc vd m) s = .next t ∧ exec (.dec vd a) t = .next u ∧
      Answers u (BitVec.ofNat 32 (m.toNat % 2 ^ (r + 1))))

/-- 41_codec.md R121: the halves of a codeword. -/
def Obligations.CodewordSplitsIntoHalves : Prop :=
  ∀ r m : Nat, 1 ≤ r →
    let u := rmEncode (r - 1) (m % 2 ^ (r - 1) + (m.testBit r).toNat * 2 ^ (r - 1))
    rmEncode r m % 2 ^ 2 ^ (r - 1) = u ∧
    rmEncode r m / 2 ^ 2 ^ (r - 1) = if m.testBit (r - 1) then 2 ^ 2 ^ (r - 1) - 1 - u else u

/-! ### The noise channel -/

/-- 42_noise.md R131: each position draws its own sample in ascending order, whatever the threshold; the bits whose sample
is below the threshold are flipped and counted. -/
def Obligations.AlterFlipsTheSampledBits : Prop :=
  ∀ (vd va : VReg) (arg : Word) (s : State),
    HasFields (.alter vd va arg) ⟨0x30, vd.toField, va.toField, 0, 0⟩ ∧
    (65536 < arg.toNat → Raises (.alter vd va arg) .invalidParameter s) ∧
    (arg.toNat ≤ 65536 → ∃ t, exec (.alter vd va arg) s = .next t ∧ Answers t 0 ∧
      (t.v vd).len = (s.v va).len ∧
      (∀ i, (t.v vd).val.testBit i = xor ((s.v va).val.testBit i)
        (decide (i < (s.v va).len ∧ noiseSample s.lfsr i < arg.toNat))) ∧
      t.lfsr = lfsrStep^[16 * (s.v va).len] s.lfsr ∧ (s.lfsr ≠ 0 → t.lfsr ≠ 0) ∧
      t.flips = BitVec.ofNat 32
        ((List.range (s.v va).len).countP fun i => decide (noiseSample s.lfsr i < arg.toNat)) ∧
      SameVectorsExcept vd s t ∧ SameCodec s t ∧ SameRecord s t ∧ SameHost s t)

/-- 42_noise.md section 2 (R132): zero is a fixed point, the step is linear, and the stated inverse inverts it. -/
def Obligations.LfsrStepIsALinearBijection : Prop :=
  let inverse : Word → Word := fun s' =>
    if s'.getLsbD 31 then BitVec.ofNat 32 ((s' ^^^ 0x80200003).toNat * 2 + 1) else BitVec.ofNat 32 (s'.toNat * 2)
  lfsrStep 0 = 0 ∧
  (∀ s : Word, inverse (lfsrStep s) = s ∧ lfsrStep (inverse s) = s) ∧
  (∀ s s' : Word, lfsrStep (s ^^^ s') = lfsrStep s ^^^ lfsrStep s') ∧
  (∀ s : Word, s ≠ 0 → lfsrStep s ≠ 0)

/-- 42_noise.md section 2 (R135 (a), (b)): `T = 0` is the identity, `T = 65536` the complement over `len` bits. The
premise is the invariant R22 of the source register. -/
def Obligations.AlterAtTheExtremes : Prop :=
  ∀ (vd va : VReg) (s : State), (s.v va).len ≤ 65536 → (s.v va).val < 2 ^ (s.v va).len →
    (∃ t, exec (.alter vd va 0) s = .next t ∧ t.v vd = s.v va ∧ t.flips = 0) ∧
    (∃ t, exec (.alter vd va 65536) s = .next t ∧
      t.v vd = ⟨(s.v va).len, 2 ^ (s.v va).len - 1 - (s.v va).val⟩ ∧ t.flips.toNat = (s.v va).len)

/-- 42_noise.md section 2 (R135 (d), (e)): `FLIPS` is the Hamming distance of source and result, a smaller threshold flips
fewer positions, and the new LFSR value does not depend on the threshold. -/
def Obligations.AlterFlipsAreCountedAndMonotone : Prop :=
  ∀ (vd va : VReg) (a b : Word) (s : State), (s.v va).len ≤ 65536 → a.toNat ≤ b.toNat → b.toNat ≤ 65536 →
    ∃ t u, exec (.alter vd va a) s = .next t ∧ exec (.alter vd va b) s = .next u ∧
      t.flips.toNat = hammingDistance (s.v va).len (s.v va).val (t.v vd).val ∧
      (∀ i, (t.v vd).val.testBit i ≠ (s.v va).val.testBit i → (u.v vd).val.testBit i ≠ (s.v va).val.testBit i) ∧
      t.lfsr = u.lfsr

/-! ### The Hadamard engine -/

/-- 43_hadamard.md R143. -/
def Obligations.FhtLoadsTheTransform : Prop :=
  ∀ (va : VReg) (arg : Word) (s : State),
    HasFields (.fht va arg) ⟨0x40, 0, va.toField, 0, 0⟩ ∧
    (s.rvalid = false → Raises (.fht va arg) .notConfigured s) ∧
    (∀ r, s.param? = some r → ∃ t, exec (.fht va arg) s = .next t ∧
      t = { s with codec := some ⟨r, some ⟨wht r ((s.v va).val % 2 ^ 2 ^ r), none⟩⟩, rsp := some ⟨.ok, 0⟩ } ∧
      t.rvalid = true ∧ t.fvalid = true ∧ t.mvalid = false)

/-- 43_hadamard.md R144. -/
def Obligations.FrdReadsOneCoefficient : Prop :=
  ∀ (arg : Word) (s : State),
    HasFields (.frd arg) ⟨0x41, 0, 0, 0, 0⟩ ∧
    (s.fvalid = false → Raises (.frd arg) .noResult s) ∧
    (∀ r f, s.param? = some r → s.transform? = some f →
      (2 ^ r ≤ arg.toNat → Raises (.frd arg) .badIndex s) ∧
      (arg.toNat < 2 ^ r → exec (.frd arg) s =
        .next { s with rsp := some ⟨.ok, BitVec.ofInt 32 (f.coeffs.getD arg.toNat 0)⟩ }))

/-- 43_hadamard.md R145, with the tie-break of R146, the sign rule of R147 and the distance of R148. The bounds on r and
on the file are those R39 (c), R8 and R38 give. -/
def Obligations.FmaxFindsThePeak : Prop :=
  ∀ (arg : Word) (s : State),
    HasFields (.fmax arg) ⟨0x42, 0, 0, 0, 0⟩ ∧
    (s.fvalid = false → Raises (.fmax arg) .noResult s) ∧
    (∀ r f, s.param? = some r → s.transform? = some f → r ≤ 16 → f.coeffs.length = 2 ^ r →
      ∃ p, exec (.fmax arg) s =
          .next { s with codec := some ⟨r, some ⟨f.coeffs, some p⟩⟩, rsp := some ⟨.ok, p.msg⟩ } ∧
        p.pos.toNat < 2 ^ r ∧
        (∀ k, k < 2 ^ r → (f.coeffs.getD k 0).natAbs ≤ (f.coeffs.getD p.pos.toNat 0).natAbs) ∧
        (∀ k, k < p.pos.toNat → (f.coeffs.getD k 0).natAbs < (f.coeffs.getD p.pos.toNat 0).natAbs) ∧
        p.peak = BitVec.ofInt 32 (f.coeffs.getD p.pos.toNat 0) ∧
        p.dist.toNat = (2 ^ r - (f.coeffs.getD p.pos.toNat 0).natAbs) / 2 ∧
        p.msg.toNat = p.pos.toNat + (if f.coeffs.getD p.pos.toNat 0 < 0 then 2 ^ r else 0))

/-- 43_hadamard.md R149: `UNALTER vd, va` is exactly `FHT va`, then `FMAX`, then `ENC vd` of the message found, as one
command. The bound on r is the one R39 (c) and R8 give. -/
def Obligations.UnalterIsFhtFmaxEnc : Prop :=
  ∀ (vd va : VReg) (arg : Word) (s : State),
    HasFields (.unalter vd va arg) ⟨0x43, vd.toField, va.toField, 0, 0⟩ ∧
    (s.rvalid = false → Raises (.unalter vd va arg) .notConfigured s) ∧
    (∀ r, s.param? = some r → r ≤ 16 → ∃ t u w msg,
      exec (.fht va arg) s = .next t ∧ exec (.fmax arg) t = .next u ∧ Answers u msg ∧
      exec (.enc vd msg) u = .next w ∧ exec (.unalter vd va arg) s = .next w ∧ Answers w 0 ∧
      w.rvalid = true ∧ w.fvalid = true ∧ w.mvalid = true)

/-- 43_hadamard.md section 1 (R141): the corrected butterfly rounds compute the closed form. -/
def Obligations.TransformIsTheWalshSum : Prop :=
  ∀ r c k : Nat, k < 2 ^ r → (wht r c).getD k 0 = walshSum r c k

/-- 43_hadamard.md section 1 (R142, its display and (a), (b)), and the coefficient width of 10_state.md R37. -/
def Obligations.CoefficientsMeasureAgreement : Prop :=
  ∀ r c k : Nat, k < 2 ^ r →
    (wht r c).getD k 0 = 2 ^ r - 2 * (hammingDistance (2 ^ r) c (rmEncode r k) : Int) ∧
    (wht r c).getD k 0 = 2 * (hammingDistance (2 ^ r) c (rmEncode r (k + 2 ^ r)) : Int) - 2 ^ r ∧
    -(2 ^ r) ≤ (wht r c).getD k 0 ∧ (wht r c).getD k 0 ≤ 2 ^ r ∧
    (wht r c).getD k 0 % 2 = (2 ^ r : Int) % 2 ∧
    (∀ rMax, r ≤ rMax → -(2 ^ (rMax + 1)) ≤ (wht r c).getD k 0 ∧ (wht r c).getD k 0 < 2 ^ (rMax + 1))

/-- 43_hadamard.md section 1 (R142 (d)). -/
def Obligations.TransformKeepsTheEnergy : Prop :=
  ∀ r c : Nat, ((wht r c).map fun x => x ^ 2).sum = 4 ^ r

/-- 43_hadamard.md section 1 (R142 (e)). -/
def Obligations.CodewordsAreTheSinglePeaks : Prop :=
  ∀ r c : Nat, c < 2 ^ 2 ^ r →
    ((∃ m, m < 2 ^ (r + 1) ∧ c = rmEncode r m) ↔
      ∃ k, k < 2 ^ r ∧ ((wht r c).getD k 0 = 2 ^ r ∨ (wht r c).getD k 0 = -(2 ^ r)) ∧
        ∀ j, j < 2 ^ r → j ≠ k → (wht r c).getD j 0 = 0)

/-- 43_hadamard.md section 4: the transform of 2^(r+1) entries is the sum and the difference of the transforms of the two
halves of the word, the recursion a fast engine uses. -/
def Obligations.TransformSplitsIntoHalves : Prop :=
  ∀ r c : Nat,
    wht (r + 1) c =
      (List.zipWith (fun x y => x + y) (wht r c) (wht r (c / 2 ^ 2 ^ r))) ++
      (List.zipWith (fun x y => x - y) (wht r c) (wht r (c / 2 ^ 2 ^ r)))

/-- 43_hadamard.md section 3 (R150 (a)): a noiseless codeword comes back unchanged, with distance 0 and its message. -/
def Obligations.UnalterLeavesCodewordsUnchanged : Prop :=
  ∀ (vd va : VReg) (arg : Word) (s : State) (r m : Nat), s.param? = some r → r ≤ 16 → m < 2 ^ (r + 1) →
    (s.v va).val % 2 ^ 2 ^ r = rmEncode r m →
      ∃ t p, exec (.unalter vd va arg) s = .next t ∧ t.v vd = ⟨2 ^ r, rmEncode r m⟩ ∧ t.peak? = some p ∧
        p.dist = 0 ∧ p.msg = BitVec.ofNat 32 m ∧ (p.peak = BitVec.ofInt 32 (2 ^ r) ∨ p.peak = BitVec.ofInt 32 (-(2 ^ r)))

/-- 43_hadamard.md section 3 (R150 (b)): up to 2^(r−2) − 1 flipped bits are corrected, and their number is reported. -/
def Obligations.UnalterCorrectsWithinTheGuarantee : Prop :=
  ∀ (vd va : VReg) (arg a : Word) (s : State) (r m : Nat), s.param? = some r → 2 ≤ r → r ≤ 16 → m < 2 ^ (r + 1) →
    hammingDistance (2 ^ r) (s.v va).val (rmEncode r m) ≤ 2 ^ (r - 2) - 1 →
      ∃ t u p, exec (.unalter vd va arg) s = .next t ∧ t.v vd = ⟨2 ^ r, rmEncode r m⟩ ∧
        t.peak? = some p ∧ p.dist.toNat = hammingDistance (2 ^ r) (s.v va).val (rmEncode r m) ∧
        exec (.dec vd a) t = .next u ∧ Answers u (BitVec.ofNat 32 m)

/-- 43_hadamard.md R148 and section 3 (R150 (d)): the result is a valid codeword at least distance, `DIST` is that
distance, and it is 0 exactly for valid codewords. -/
def Obligations.UnalterReturnsANearestCodeword : Prop :=
  ∀ (vd va : VReg) (arg : Word) (s : State) (r : Nat), s.param? = some r → r ≤ 16 →
    ∃ t p, exec (.unalter vd va arg) s = .next t ∧ t.peak? = some p ∧
      p.msg.toNat < 2 ^ (r + 1) ∧ t.v vd = ⟨2 ^ r, rmEncode r p.msg.toNat⟩ ∧
      p.dist.toNat = hammingDistance (2 ^ r) (s.v va).val (rmEncode r p.msg.toNat) ∧
      (∀ m, hammingDistance (2 ^ r) (s.v va).val (rmEncode r p.msg.toNat) ≤
        hammingDistance (2 ^ r) (s.v va).val (rmEncode r m)) ∧
      (p.dist = 0 ↔ ∃ m, (s.v va).val % 2 ^ 2 ^ r = rmEncode r m)

/-! ### The whole machine -/

/-- 10_state.md section 7 (R39) at reset, in every instance, and in the one `State.reset` stands for (log entry 1). -/
def Obligations.ResetSatisfiesTheInvariant : Prop :=
  State.reset.Inv ∧ ∀ rMax, Config.LegalRMax rMax → (State.resetOf rMax).Inv

/-- 10_state.md section 7 (R39): every step, of every instance and from every state that satisfies the invariant, keeps
it; with (a) and (b) of R39. -/
def Obligations.StepKeepsTheInvariant : Prop :=
  ∀ s t : State, s.Inv → step s = .next t →
    t.Inv ∧ t.rMax = s.rMax ∧ (t.fvalid = true → t.rvalid = true) ∧ (t.mvalid = true → t.fvalid = true)

/-- 10_state.md section 2 (R23) and R31, R34: a vector register changes only as the destination of a command that writes
one, `LFSR` only by `ALTER` and `CSRW LFSR`, `FLIPS` only by `ALTER`. -/
def Obligations.OnlyNamedCommandsWriteARegister : Prop :=
  ∀ (i : Instr) (s t : State), exec i s = .next t →
    (∀ n, writtenVector i ≠ some n → t.v n = s.v n) ∧
    (t.lfsr ≠ s.lfsr → (∃ vd va a, i = .alter vd va a) ∨ ∃ a, i = .csrw 0x003 a) ∧
    (t.flips ≠ s.flips → ∃ vd va a, i = .alter vd va a)

/-- 10_state.md R27: who sets and who clears the four flags; no other successful command changes one. -/
def Obligations.FlagsFollowTheTable : Prop :=
  ∀ (i : Instr) (s t : State), exec i s = .next t →
    (∀ e, t.rsp = some ⟨.error e, 0⟩ →
      t.rvalid = s.rvalid ∧ t.fvalid = s.fvalid ∧ t.mvalid = s.mvalid ∧ t.err = true) ∧
    (∀ d, t.rsp = some ⟨.ok, d⟩ →
      t.rvalid = (if flagEvent i = .configure then true else s.rvalid) ∧
      t.fvalid = (if flagEvent i = .configure then false
        else if flagEvent i = .transform ∨ flagEvent i = .transformAndPeak then true else s.fvalid) ∧
      t.mvalid = (if flagEvent i = .configure ∨ flagEvent i = .transform then false
        else if flagEvent i = .peak ∨ flagEvent i = .transformAndPeak then true else s.mvalid) ∧
      t.err = (if flagEvent i = .clearErr then false else s.err))

/-- 20_memory.md section 4 (R55): a read command leaves the state as it is but for its answer and, if it raises, the trap
record; issued again it gives the same response. -/
def Obligations.ReadCommandsChangeNothing : Prop :=
  ∀ (i : Instr) (s : State),
    ((∃ va k a, i = .vrdw va k a) ∨ (∃ va a, i = .vlen va a) ∨ (∃ va a, i = .vget va a) ∨ (∃ va a, i = .dec va a) ∨
      (∃ a, i = .frd a) ∨ (∃ n a, i = .csrr n a)) →
    ∃ t r, exec i s = .next t ∧ t.rsp = some r ∧ SameButRecord { s with rsp := some r } t ∧
      (r.status = .ok → t = { s with rsp := some r }) ∧
      ∃ u, exec i t = .next u ∧ u.rsp = some r
end

