-- ==== Sys2Proof/Laws/State.lean ====
section
/-! SUPPORT. What each update of the state does to each field; all by rfl, so that no proof unfolds an update. -/

namespace Sys2Proof.Machine

section setV
variable (s : State) (n : VReg) (x : Vec)

@[simp] theorem State.setV_rMax : (s.setV n x).rMax = s.rMax := by cases n <;> rfl
@[simp] theorem State.setV_codec : (s.setV n x).codec = s.codec := by cases n <;> rfl
@[simp] theorem State.setV_lfsr : (s.setV n x).lfsr = s.lfsr := by cases n <;> rfl
@[simp] theorem State.setV_err : (s.setV n x).err = s.err := by cases n <;> rfl
@[simp] theorem State.setV_cause : (s.setV n x).cause = s.cause := by cases n <;> rfl
@[simp] theorem State.setV_flips : (s.setV n x).flips = s.flips := by cases n <;> rfl
@[simp] theorem State.setV_ecmd : (s.setV n x).ecmd = s.ecmd := by cases n <;> rfl
@[simp] theorem State.setV_earg : (s.setV n x).earg = s.earg := by cases n <;> rfl
@[simp] theorem State.setV_rsp : (s.setV n x).rsp = s.rsp := by cases n <;> rfl
@[simp] theorem State.setV_inputs : (s.setV n x).inputs = s.inputs := by cases n <;> rfl
@[simp] theorem State.setV_taken : (s.setV n x).taken = s.taken := by cases n <;> rfl
@[simp] theorem State.setV_capacity : (s.setV n x).capacity = s.capacity := by cases n <;> rfl

@[simp] theorem State.v_setV_same : (s.setV n x).v n = x := by cases n <;> rfl

theorem State.v_setV_of_ne (m : VReg) (h : m ≠ n) : (s.setV n x).v m = s.v m := by
  cases n <;> cases m <;> first | rfl | exact absurd rfl h

theorem State.v_setV (m : VReg) : (s.setV n x).v m = if m = n then x else s.v m := by
  split
  · next h => subst h; simp
  · next h => exact s.v_setV_of_ne n x m h

end setV

section putResponse
variable (r : Response) (s : State)

@[simp] theorem State.putResponse_rMax : (s.putResponse r).rMax = s.rMax := rfl
@[simp] theorem State.putResponse_v (n : VReg) : (s.putResponse r).v n = s.v n := by cases n <;> rfl
@[simp] theorem State.putResponse_codec : (s.putResponse r).codec = s.codec := rfl
@[simp] theorem State.putResponse_lfsr : (s.putResponse r).lfsr = s.lfsr := rfl
@[simp] theorem State.putResponse_err : (s.putResponse r).err = s.err := rfl
@[simp] theorem State.putResponse_cause : (s.putResponse r).cause = s.cause := rfl
@[simp] theorem State.putResponse_flips : (s.putResponse r).flips = s.flips := rfl
@[simp] theorem State.putResponse_ecmd : (s.putResponse r).ecmd = s.ecmd := rfl
@[simp] theorem State.putResponse_earg : (s.putResponse r).earg = s.earg := rfl
@[simp] theorem State.putResponse_rsp : (s.putResponse r).rsp = some r := rfl
@[simp] theorem State.putResponse_inputs : (s.putResponse r).inputs = s.inputs := rfl
@[simp] theorem State.putResponse_taken : (s.putResponse r).taken = s.taken := rfl

end putResponse

section takeError
variable (e : Error) (b : Beat) (s : State)

@[simp] theorem State.takeError_rMax : (s.takeError e b).rMax = s.rMax := rfl
@[simp] theorem State.takeError_v (n : VReg) : (s.takeError e b).v n = s.v n := by cases n <;> rfl
@[simp] theorem State.takeError_codec : (s.takeError e b).codec = s.codec := rfl
@[simp] theorem State.takeError_lfsr : (s.takeError e b).lfsr = s.lfsr := rfl
@[simp] theorem State.takeError_err : (s.takeError e b).err = true := rfl
@[simp] theorem State.takeError_cause : (s.takeError e b).cause = .error e := rfl
@[simp] theorem State.takeError_flips : (s.takeError e b).flips = s.flips := rfl
@[simp] theorem State.takeError_ecmd : (s.takeError e b).ecmd = b.cmd := rfl
@[simp] theorem State.takeError_earg : (s.takeError e b).earg = b.arg := rfl
@[simp] theorem State.takeError_rsp : (s.takeError e b).rsp = some ⟨.error e, 0⟩ := rfl
@[simp] theorem State.takeError_inputs : (s.takeError e b).inputs = s.inputs := rfl
@[simp] theorem State.takeError_taken : (s.takeError e b).taken = s.taken := rfl

end takeError

section clearError
variable (s : State)

@[simp] theorem State.clearError_rMax : s.clearError.rMax = s.rMax := rfl
@[simp] theorem State.clearError_v (n : VReg) : s.clearError.v n = s.v n := by cases n <;> rfl
@[simp] theorem State.clearError_codec : s.clearError.codec = s.codec := rfl
@[simp] theorem State.clearError_lfsr : s.clearError.lfsr = s.lfsr := rfl
@[simp] theorem State.clearError_err : s.clearError.err = false := rfl
@[simp] theorem State.clearError_cause : s.clearError.cause = .ok := rfl
@[simp] theorem State.clearError_flips : s.clearError.flips = s.flips := rfl
@[simp] theorem State.clearError_ecmd : s.clearError.ecmd = s.ecmd := rfl
@[simp] theorem State.clearError_earg : s.clearError.earg = s.earg := rfl
@[simp] theorem State.clearError_inputs : s.clearError.inputs = s.inputs := rfl
@[simp] theorem State.clearError_taken : s.clearError.taken = s.taken := rfl

end clearError

section codec
variable (r : Nat) (F : List Int) (p : Peak) (s : State)

@[simp] theorem State.configure_codec : (s.configure r).codec = some ⟨r, none⟩ := rfl
@[simp] theorem State.loadTransform_codec : (s.loadTransform r F).codec = some ⟨r, some ⟨F, none⟩⟩ := rfl
@[simp] theorem State.loadPeak_codec : (s.loadPeak r F p).codec = some ⟨r, some ⟨F, some p⟩⟩ := rfl
@[simp] theorem State.configure_v (n : VReg) : (s.configure r).v n = s.v n := by cases n <;> rfl
@[simp] theorem State.loadTransform_v (n : VReg) : (s.loadTransform r F).v n = s.v n := by cases n <;> rfl
@[simp] theorem State.loadPeak_v (n : VReg) : (s.loadPeak r F p).v n = s.v n := by cases n <;> rfl
@[simp] theorem State.configure_rMax : (s.configure r).rMax = s.rMax := rfl
@[simp] theorem State.loadTransform_rMax : (s.loadTransform r F).rMax = s.rMax := rfl
@[simp] theorem State.loadPeak_rMax : (s.loadPeak r F p).rMax = s.rMax := rfl
@[simp] theorem State.configure_lfsr : (s.configure r).lfsr = s.lfsr := rfl
@[simp] theorem State.loadTransform_lfsr : (s.loadTransform r F).lfsr = s.lfsr := rfl
@[simp] theorem State.loadPeak_lfsr : (s.loadPeak r F p).lfsr = s.lfsr := rfl
@[simp] theorem State.configure_err : (s.configure r).err = s.err := rfl
@[simp] theorem State.loadTransform_err : (s.loadTransform r F).err = s.err := rfl
@[simp] theorem State.loadPeak_err : (s.loadPeak r F p).err = s.err := rfl
@[simp] theorem State.configure_cause : (s.configure r).cause = s.cause := rfl
@[simp] theorem State.loadTransform_cause : (s.loadTransform r F).cause = s.cause := rfl
@[simp] theorem State.loadPeak_cause : (s.loadPeak r F p).cause = s.cause := rfl
@[simp] theorem State.configure_flips : (s.configure r).flips = s.flips := rfl
@[simp] theorem State.loadTransform_flips : (s.loadTransform r F).flips = s.flips := rfl
@[simp] theorem State.loadPeak_flips : (s.loadPeak r F p).flips = s.flips := rfl
@[simp] theorem State.configure_ecmd : (s.configure r).ecmd = s.ecmd := rfl
@[simp] theorem State.loadTransform_ecmd : (s.loadTransform r F).ecmd = s.ecmd := rfl
@[simp] theorem State.loadPeak_ecmd : (s.loadPeak r F p).ecmd = s.ecmd := rfl
@[simp] theorem State.configure_earg : (s.configure r).earg = s.earg := rfl
@[simp] theorem State.loadTransform_earg : (s.loadTransform r F).earg = s.earg := rfl
@[simp] theorem State.loadPeak_earg : (s.loadPeak r F p).earg = s.earg := rfl
@[simp] theorem State.configure_inputs : (s.configure r).inputs = s.inputs := rfl
@[simp] theorem State.loadTransform_inputs : (s.loadTransform r F).inputs = s.inputs := rfl
@[simp] theorem State.loadPeak_inputs : (s.loadPeak r F p).inputs = s.inputs := rfl
@[simp] theorem State.configure_taken : (s.configure r).taken = s.taken := rfl
@[simp] theorem State.loadTransform_taken : (s.loadTransform r F).taken = s.taken := rfl
@[simp] theorem State.loadPeak_taken : (s.loadPeak r F p).taken = s.taken := rfl

end codec

section noise
variable (s : State) (w : Word)

@[simp] theorem State.v_with_lfsr (n : VReg) : ({ s with lfsr := w } : State).v n = s.v n := by cases n <;> rfl
@[simp] theorem State.v_with_flips (n : VReg) : ({ s with flips := w } : State).v n = s.v n := by cases n <;> rfl
@[simp] theorem State.v_with_lfsr_flips (n : VReg) (u : Word) :
    ({ s with lfsr := w, flips := u } : State).v n = s.v n := by cases n <;> rfl

end noise

section port
variable (s : State) (r : Response)

@[simp] theorem State.popInput_v (n : VReg) : s.popInput.v n = s.v n := by cases n <;> rfl
@[simp] theorem State.popInput_rMax : s.popInput.rMax = s.rMax := rfl
@[simp] theorem State.popInput_codec : s.popInput.codec = s.codec := rfl
@[simp] theorem State.popInput_lfsr : s.popInput.lfsr = s.lfsr := rfl
@[simp] theorem State.popInput_err : s.popInput.err = s.err := rfl
@[simp] theorem State.popInput_cause : s.popInput.cause = s.cause := rfl
@[simp] theorem State.popInput_flips : s.popInput.flips = s.flips := rfl
@[simp] theorem State.popInput_ecmd : s.popInput.ecmd = s.ecmd := rfl
@[simp] theorem State.popInput_earg : s.popInput.earg = s.earg := rfl
@[simp] theorem State.popInput_rsp : s.popInput.rsp = s.rsp := rfl
@[simp] theorem State.popInput_inputs : s.popInput.inputs = s.inputs.tail := rfl
@[simp] theorem State.popInput_taken : s.popInput.taken = s.taken := rfl
@[simp] theorem State.transfer_v (n : VReg) : (s.transfer r).v n = s.v n := by cases n <;> rfl
@[simp] theorem State.transfer_rMax : (s.transfer r).rMax = s.rMax := rfl
@[simp] theorem State.transfer_codec : (s.transfer r).codec = s.codec := rfl
@[simp] theorem State.transfer_lfsr : (s.transfer r).lfsr = s.lfsr := rfl
@[simp] theorem State.transfer_err : (s.transfer r).err = s.err := rfl
@[simp] theorem State.transfer_cause : (s.transfer r).cause = s.cause := rfl
@[simp] theorem State.transfer_flips : (s.transfer r).flips = s.flips := rfl
@[simp] theorem State.transfer_ecmd : (s.transfer r).ecmd = s.ecmd := rfl
@[simp] theorem State.transfer_earg : (s.transfer r).earg = s.earg := rfl
@[simp] theorem State.transfer_rsp : (s.transfer r).rsp = none := rfl
@[simp] theorem State.transfer_inputs : (s.transfer r).inputs = s.inputs := rfl
@[simp] theorem State.transfer_taken : (s.transfer r).taken = s.taken ++ [r] := rfl
@[simp] theorem State.resetEvent_v (n : VReg) : s.resetEvent.v n = ⟨0, 0⟩ := by cases n <;> rfl
@[simp] theorem State.resetEvent_rMax : s.resetEvent.rMax = s.rMax := rfl
@[simp] theorem State.resetEvent_codec : s.resetEvent.codec = none := rfl
@[simp] theorem State.resetEvent_lfsr : s.resetEvent.lfsr = Config.lfsrReset := rfl
@[simp] theorem State.resetEvent_err : s.resetEvent.err = false := rfl
@[simp] theorem State.resetEvent_cause : s.resetEvent.cause = .ok := rfl
@[simp] theorem State.resetEvent_flips : s.resetEvent.flips = 0 := rfl
@[simp] theorem State.resetEvent_rsp : s.resetEvent.rsp = none := rfl
@[simp] theorem State.resetEvent_inputs : s.resetEvent.inputs = s.inputs := rfl
@[simp] theorem State.resetEvent_taken : s.resetEvent.taken = s.taken := rfl

end port

/-- Two states with the same registers and fields are equal: the way to prove an equation between states. -/
theorem State.ext_v {s t : State} (hr : s.rMax = t.rMax) (hv : ∀ n, s.v n = t.v n) (hc : s.codec = t.codec)
    (hl : s.lfsr = t.lfsr) (he : s.err = t.err) (hca : s.cause = t.cause) (hf : s.flips = t.flips)
    (hec : s.ecmd = t.ecmd) (hea : s.earg = t.earg) (hrsp : s.rsp = t.rsp) (hi : s.inputs = t.inputs)
    (ht : s.taken = t.taken) : s = t := by
  have h0 := hv .V0
  have h1 := hv .V1
  have h2 := hv .V2
  have h3 := hv .V3
  cases s
  cases t
  simp only [State.v] at h0 h1 h2 h3
  simp_all

end Sys2Proof.Machine
end

