-- ==== Sys2Proof/Laws/Encoding.lean ====
section
/-! SUPPORT. The command word and its fields: splitting and joining are inverse, masking is field by field. -/

namespace Sys2Proof

theorem Fields.ofCmd_toCmd (f : Fields) : Fields.ofCmd f.toCmd = f := by
  rcases f with ⟨op, vd, va, vb, imm⟩
  simp only [Fields.ofCmd, Fields.toCmd, Fields.mk.injEq]
  refine ⟨?_, ?_, ?_, ?_, ?_⟩ <;>
  · apply BitVec.eq_of_getLsbD_eq
    intro i hi
    simp only [BitVec.getLsbD_extractLsb', BitVec.getLsbD_setWidth, BitVec.getLsbD_append]
    grind

theorem Fields.toCmd_ofCmd (cmd : Word) : (Fields.ofCmd cmd).toCmd = cmd := by
  simp only [Fields.ofCmd, Fields.toCmd]
  apply BitVec.eq_of_getLsbD_eq
  intro i hi
  simp only [BitVec.getLsbD_extractLsb', BitVec.getLsbD_setWidth, BitVec.getLsbD_append]
  grind

/-- The fields of a beat written by `beatOf`. -/
@[simp] theorem ofCmd_beatOf (op : BitVec 8) (vd va vb : BitVec 4) (imm : BitVec 12) (arg : Word) :
    Fields.ofCmd (beatOf op vd va vb imm arg).cmd = ⟨op, vd, va, vb, imm⟩ := Fields.ofCmd_toCmd _

@[simp] theorem beatOf_arg (op : BitVec 8) (vd va vb : BitVec 4) (imm : BitVec 12) (arg : Word) :
    (beatOf op vd va vb imm arg).arg = arg := rfl

/-- A command word is determined by its fields. -/
theorem eq_of_ofCmd_eq {a b : Word} (h : Fields.ofCmd a = Fields.ofCmd b) : a = b := by
  rw [← Fields.toCmd_ofCmd a, ← Fields.toCmd_ofCmd b, h]

/-- The fields of a masked word are the masked fields. -/
theorem ofCmd_and (a b : Word) :
    Fields.ofCmd (a &&& b) =
      ⟨(Fields.ofCmd a).op &&& (Fields.ofCmd b).op, (Fields.ofCmd a).vd &&& (Fields.ofCmd b).vd,
        (Fields.ofCmd a).va &&& (Fields.ofCmd b).va, (Fields.ofCmd a).vb &&& (Fields.ofCmd b).vb,
        (Fields.ofCmd a).imm12 &&& (Fields.ofCmd b).imm12⟩ := by
  simp only [Fields.ofCmd, Fields.mk.injEq]
  refine ⟨?_, ?_, ?_, ?_, ?_⟩ <;>
  · apply BitVec.eq_of_getLsbD_eq
    intro i hi
    simp [hi]

@[simp] theorem VReg.ofField_toField (n : VReg) : VReg.ofField n.toField = some n := by cases n <;> rfl

/-- The register of a field is the one with that number. -/
theorem VReg.toField_of_ofField {b : BitVec 4} {n : VReg} (h : VReg.ofField b = some n) : n.toField = b := by
  revert b n
  decide

/-- A field names a register exactly at the values 0 to 3 (R71). -/
theorem VReg.ofField_isSome_iff (b : BitVec 4) : (VReg.ofField b).isSome ↔ b.toNat ≤ 3 := by
  revert b
  decide

@[simp] theorem Csr.ofNumber_number (c : Csr) : Csr.ofNumber c.number = some c := by cases c <;> rfl

/-- The control register of a number is the one with that number. -/
theorem Csr.number_of_ofNumber {n : BitVec 12} {c : Csr} (h : Csr.ofNumber n = some c) : c.number = n := by
  have := List.find?_some h
  simpa using this

/-- The numbers 0x000 to 0x00B, and no others, name a control register (10_state.md R36). -/
theorem Csr.ofNumber_isSome_iff (n : BitVec 12) : (Csr.ofNumber n).isSome ↔ n.toNat ≤ 0x00B := by
  constructor
  · intro h
    obtain ⟨c, hc⟩ := Option.isSome_iff_exists.mp h
    rw [← Csr.number_of_ofNumber hc]
    cases c <;> decide
  · intro h
    have hn : n = BitVec.ofNat 12 n.toNat := by simp
    generalize n.toNat = k at h hn
    subst hn
    interval_cases k <;> rfl

theorem requireZero_ok {z : Bool} {x : Except Reject Instr} {i : Instr} :
    requireZero z x = .ok i ↔ z = true ∧ x = .ok i := by
  cases z <;> simp [requireZero]

theorem withReg_ok {b : BitVec 4} {k : VReg → Except Reject Instr} {i : Instr} :
    withReg b k = .ok i ↔ ∃ n, b = n.toField ∧ k n = .ok i := by
  constructor
  · intro h
    cases hb : VReg.ofField b with
    | none => simp [withReg, hb] at h
    | some n => exact ⟨n, (VReg.toField_of_ofField hb).symm, by simpa [withReg, hb] using h⟩
  · rintro ⟨n, rfl, h⟩
    simpa [withReg] using h

end Sys2Proof
end

