-- ==== Sys2Proof/Laws/Ops.lean ====
section
/-! SUPPORT. One lemma for each shared operation: everything it can do. -/

namespace Sys2Proof.Machine

theorem respond_next {d : Word} {s t : State} : respond d s = .next t ↔ t = s.putResponse ⟨.ok, d⟩ := by
  constructor
  · intro h; cases h; rfl
  · rintro rfl; rfl

theorem raise_next {e : Error} {b : Beat} {s t : State} : raise e b s = .next t ↔ t = s.takeError e b := by
  constructor
  · intro h; cases h; rfl
  · rintro rfl; rfl

/-- The trap record of the statements is the one the machine writes. -/
theorem takeError_eq_trapped (e : Error) (b : Beat) (s : State) : s.takeError e b = Trapped e b s := rfl

/-- A command that rewrites one bit either raises or writes the destination alone (R97 to R99). -/
theorem rewriteBit_cases (i : Instr) (vd : VReg) (arg : Word) (new : Nat → Nat → Nat) (s : State) :
    ((s.v vd).len ≤ arg.toNat ∧ rewriteBit i vd arg new s = raise .badIndex (encode i) s) ∨
    (arg.toNat < (s.v vd).len ∧
      rewriteBit i vd arg new s = respond 0 (s.setV vd ⟨(s.v vd).len, new (s.v vd).val arg.toNat⟩)) := by
  rcases Nat.lt_or_ge arg.toNat (s.v vd).len with h | h
  · exact .inr ⟨h, by simp [rewriteBit, Nat.not_le.mpr h]⟩
  · exact .inl ⟨h, by simp [rewriteBit, h]⟩

/-- A bitwise command of two registers either raises or writes the destination alone (R101, R102). -/
theorem combineVecs_cases (i : Instr) (vd va vb : VReg) (f : Nat → Nat → Nat) (s : State) :
    ((s.v va).len ≠ (s.v vb).len ∧ combineVecs i vd va vb f s = raise .lenMismatch (encode i) s) ∨
    ((s.v va).len = (s.v vb).len ∧
      combineVecs i vd va vb f s = respond 0 (s.setV vd ⟨(s.v va).len, f (s.v va).val (s.v vb).val⟩)) := by
  by_cases h : (s.v va).len = (s.v vb).len
  · exact .inr ⟨h, by simp [combineVecs, h]⟩
  · exact .inl ⟨h, by simp [combineVecs, h]⟩

/-- What an instruction that answers `OK` may have done to the state before the answer is put: nothing, one vector
register written, the codec cell replaced, the channel's registers written, or the sticky error cleared. -/
inductive OkEffect (s : State) : State → Prop where
  | nothing : OkEffect s s
  | vector (n : VReg) (x : Vec) : OkEffect s (s.setV n x)
  | configure (r : Nat) : OkEffect s (s.configure r)
  | transform (r : Nat) (F : List Int) : OkEffect s (s.loadTransform r F)
  | peak (r : Nat) (F : List Int) (p : Peak) : OkEffect s (s.loadPeak r F p)
  | unalter (r : Nat) (F : List Int) (p : Peak) (n : VReg) (x : Vec) : OkEffect s ((s.loadPeak r F p).setV n x)
  | seed (w : Word) : OkEffect s { s with lfsr := w }
  | channel (n : VReg) (x : Vec) (w f : Word) : OkEffect s { s.setV n x with lfsr := w, flips := f }
  | clear : OkEffect s s.clearError

/-- An answered read of a control register: the value, or the error. -/
theorem execCsrr_cases (n : BitVec 12) (arg : Word) (s : State) :
    (∃ e, execCsrr n arg s = raise e (encode (.csrr n arg)) s) ∨
    (∃ c d, Csr.ofNumber n = some c ∧ s.readCsr c = .ok d ∧ execCsrr n arg s = respond d s) := by
  unfold execCsrr
  cases hn : Csr.ofNumber n with
  | none => exact .inl ⟨_, rfl⟩
  | some c =>
    cases hr : s.readCsr c with
    | ok d => exact .inr ⟨c, d, rfl, hr, by simp only [hr]⟩
    | error e => exact .inl ⟨e, by simp only [hr]⟩

/-- An answered write of a control register: the new state, or the error. -/
theorem execCsrw_cases (n : BitVec 12) (arg : Word) (s : State) :
    (∃ e, execCsrw n arg s = raise e (encode (.csrw n arg)) s) ∨
    (∃ c t, Csr.ofNumber n = some c ∧ s.writeCsr c arg = .ok t ∧ execCsrw n arg s = respond 0 t) := by
  unfold execCsrw
  cases hn : Csr.ofNumber n with
  | none => exact .inl ⟨_, rfl⟩
  | some c =>
    cases hr : s.writeCsr c arg with
    | ok d => exact .inr ⟨c, d, rfl, hr, by simp only [hr]⟩
    | error e => exact .inl ⟨e, by simp only [hr]⟩

/-- What a write of a control register that does not raise has done. -/
theorem writeCsr_ok {s t : State} {c : Csr} {arg : Word} (h : s.writeCsr c arg = .ok t) :
    (c = .r ∧ arg.toNat ≤ s.rMax ∧ t = s.configure arg.toNat) ∨
    (c = .lfsr ∧ arg ≠ 0 ∧ t = { s with lfsr := arg }) ∨
    (c = .status ∧ t = if arg.getLsbD 3 then s.clearError else s) := by
  cases c <;> simp only [State.writeCsr] at h
  case r =>
    split at h
    · cases h
    · cases h; exact .inl ⟨rfl, by omega, rfl⟩
  case lfsr =>
    split at h
    · cases h
    · next ha => cases h; exact .inr (.inl ⟨rfl, ha, rfl⟩)
  case status => cases h; exact .inr (.inr ⟨rfl, rfl⟩)
  all_goals cases h

/-- Inversion of `exec`: an instruction raises, with the whole state kept, or answers `OK` after one of the effects
above. -/
theorem exec_cases (i : Instr) (s : State) :
    (∃ e, exec i s = raise e (encode i) s) ∨ (∃ d t, OkEffect s t ∧ exec i s = respond d t) := by
  cases i with
  | nop arg => exact .inr ⟨0, s, .nothing, rfl⟩
  | csrr n arg =>
    rcases execCsrr_cases n arg s with ⟨e, h⟩ | ⟨c, d, -, -, h⟩
    · exact .inl ⟨e, h⟩
    · exact .inr ⟨d, s, .nothing, h⟩
  | csrw n arg =>
    rcases execCsrw_cases n arg s with ⟨e, h⟩ | ⟨c, t, -, hw, h⟩
    · exact .inl ⟨e, h⟩
    · refine .inr ⟨0, t, ?_, h⟩
      rcases writeCsr_ok hw with ⟨-, -, rfl⟩ | ⟨-, -, rfl⟩ | ⟨-, rfl⟩
      · exact .configure _
      · exact .seed _
      · split
        · exact .clear
        · exact .nothing
  | vnew vd arg =>
    simp only [exec, execVnew]
    split
    · exact .inl ⟨_, rfl⟩
    · exact .inr ⟨_, _, .vector _ _, rfl⟩
  | vldw vd k arg =>
    simp only [exec, execVldw]
    split
    · exact .inl ⟨_, rfl⟩
    · exact .inr ⟨_, _, .vector _ _, rfl⟩
  | vrdw va k arg =>
    simp only [exec, execVrdw]
    split
    · exact .inl ⟨_, rfl⟩
    · exact .inr ⟨_, _, .nothing, rfl⟩
  | vlen va arg => exact .inr ⟨_, _, .nothing, rfl⟩
  | vget va arg =>
    simp only [exec, execVget]
    split
    · exact .inl ⟨_, rfl⟩
    · exact .inr ⟨_, _, .nothing, rfl⟩
  | vset vd arg =>
    rcases rewriteBit_cases (.vset vd arg) vd arg (fun val i => val ||| 2 ^ i) s with ⟨-, h⟩ | ⟨-, h⟩
    · exact .inl ⟨_, h⟩
    · exact .inr ⟨_, _, .vector _ _, h⟩
  | vclrb vd arg =>
    rcases rewriteBit_cases (.vclrb vd arg) vd arg (fun val i => val - 2 ^ i * (val.testBit i).toNat) s with
      ⟨-, h⟩ | ⟨-, h⟩
    · exact .inl ⟨_, h⟩
    · exact .inr ⟨_, _, .vector _ _, h⟩
  | vflip vd arg =>
    rcases rewriteBit_cases (.vflip vd arg) vd arg (fun val i => val ^^^ 2 ^ i) s with ⟨-, h⟩ | ⟨-, h⟩
    · exact .inl ⟨_, h⟩
    · exact .inr ⟨_, _, .vector _ _, h⟩
  | vnot vd va arg => exact .inr ⟨_, _, .vector _ _, rfl⟩
  | vand vd va vb arg =>
    rcases combineVecs_cases (.vand vd va vb arg) vd va vb (fun a b => a &&& b) s with ⟨-, h⟩ | ⟨-, h⟩
    · exact .inl ⟨_, h⟩
    · exact .inr ⟨_, _, .vector _ _, h⟩
  | vor vd va vb arg =>
    rcases combineVecs_cases (.vor vd va vb arg) vd va vb (fun a b => a ||| b) s with ⟨-, h⟩ | ⟨-, h⟩
    · exact .inl ⟨_, h⟩
    · exact .inr ⟨_, _, .vector _ _, h⟩
  | enc vd arg =>
    simp only [exec, execEnc]
    split
    · exact .inl ⟨_, rfl⟩
    · exact .inr ⟨_, _, .vector _ _, rfl⟩
  | dec va arg =>
    simp only [exec, execDec]
    split
    · exact .inl ⟨_, rfl⟩
    · exact .inr ⟨_, _, .nothing, rfl⟩
  | alter vd va arg =>
    simp only [exec, execAlter]
    split
    · exact .inl ⟨_, rfl⟩
    · exact .inr ⟨_, _, .channel _ _ _ _, rfl⟩
  | fht va arg =>
    simp only [exec, execFht]
    split
    · exact .inl ⟨_, rfl⟩
    · exact .inr ⟨_, _, .transform _ _, rfl⟩
  | frd arg =>
    simp only [exec, execFrd]
    split
    · split
      · exact .inl ⟨_, rfl⟩
      · exact .inr ⟨_, _, .nothing, rfl⟩
    · exact .inl ⟨_, rfl⟩
    · exact .inl ⟨_, rfl⟩
  | fmax arg =>
    simp only [exec, execFmax]
    split
    · exact .inr ⟨_, _, .peak _ _ _, rfl⟩
    · exact .inl ⟨_, rfl⟩
    · exact .inl ⟨_, rfl⟩
  | unalter vd va arg =>
    simp only [exec, execUnalter]
    split
    · exact .inl ⟨_, rfl⟩
    · exact .inr ⟨_, _, .unalter _ _ _ _ _, rfl⟩

end Sys2Proof.Machine
end

