-- ==== Sys2Proof/Laws/Bits.lean ====
section
/-! SUPPORT. The pure functions over bits: what each bit of a result is, and how large the result is. -/

namespace Sys2Proof.Machine

theorem ofBits_lt (n : Nat) (c : Nat → Bool) : ofBits n c < 2 ^ n := by
  induction n with
  | zero => simp [ofBits]
  | succ n ih =>
    have := Bool.toNat_le (c n)
    have h2 : 2 ^ (n + 1) = 2 ^ n + 2 ^ n := by ring
    simp only [ofBits]
    nlinarith

/-- Bit `i` of `Σ_{i<n} c_i · 2^i` (R122). -/
theorem testBit_ofBits (n : Nat) (c : Nat → Bool) (i : Nat) : (ofBits n c).testBit i = (decide (i < n) && c i) := by
  induction n with
  | zero => simp [ofBits]
  | succ n ih =>
    have hlt := ofBits_lt n c
    have hform : ofBits (n + 1) c = 2 ^ n * (c n).toNat + ofBits n c := by simp [ofBits]; ring
    rw [hform, Nat.testBit_two_pow_mul_add _ hlt]
    split
    · next h => rw [ih]; simp [h, Nat.lt_succ_of_lt h]
    · next h =>
      rcases Nat.eq_or_lt_of_le (Nat.not_lt.mp h) with rfl | h'
      · simp only [Nat.sub_self, Nat.lt_succ_self, decide_true, Bool.true_and]
        cases c n <;> rfl
      · have hz : (c n).toNat.testBit (i - n) = false := by
          apply Nat.testBit_lt_two_pow
          calc (c n).toNat < 2 := Nat.lt_succ_of_le (Bool.toNat_le _)
            _ = 2 ^ 1 := rfl
            _ ≤ 2 ^ (i - n) := Nat.pow_le_pow_right (by omega) (by omega)
        rw [hz]
        have : ¬ i < n + 1 := by omega
        simp [this]

theorem ofBits_congr {n : Nat} {c d : Nat → Bool} (h : ∀ i, i < n → c i = d i) : ofBits n c = ofBits n d := by
  apply Nat.eq_of_testBit_eq
  intro i
  rw [testBit_ofBits, testBit_ofBits]
  by_cases hi : i < n
  · simp [h i hi]
  · simp [hi]

theorem xorBelow_congr {n : Nat} {c d : Nat → Bool} (h : ∀ i, i < n → c i = d i) : xorBelow n c = xorBelow n d := by
  induction n with
  | zero => rfl
  | succ n ih => simp [xorBelow, ih fun i hi => h i (Nat.lt_succ_of_lt hi), h n (Nat.lt_succ_self n)]

/-- The exclusive or of bits is the parity of their sum. -/
theorem xorBelow_toNat (n : Nat) (c : Nat → Bool) :
    (xorBelow n c).toNat = (∑ j ∈ Finset.range n, (c j).toNat) % 2 := by
  induction n with
  | zero => rfl
  | succ n ih =>
    rw [Finset.sum_range_succ, Nat.add_mod, ← ih, xorBelow]
    cases xorBelow n c <;> cases c n <;> rfl

/-- A codeword fits its 2^r bits. -/
theorem rmEncode_lt (r m : Nat) : rmEncode r m < 2 ^ 2 ^ r := ofBits_lt _ _

/-- Bit `i` of a codeword (R111). -/
theorem testBit_rmEncode (r m i : Nat) : (rmEncode r m).testBit i = (decide (i < 2 ^ r) && codewordBit r m i) :=
  testBit_ofBits _ _ _

theorem trunc_lt (n v : Nat) : trunc n v < 2 ^ n := Nat.mod_lt _ (by positivity)

theorem testBit_trunc (n v i : Nat) : (trunc n v).testBit i = (decide (i < n) && v.testBit i) :=
  Nat.testBit_mod_two_pow v n i

theorem wordOperand_lt (r : Nat) (x : Vec) : wordOperand r x < 2 ^ 2 ^ r := trunc_lt _ _

theorem messageOperand_lt (r v : Nat) : messageOperand r v < 2 ^ (r + 1) := trunc_lt _ _

@[simp] theorem vecWithWord_len (x : Vec) (k data : Nat) : (vecWithWord x k data).len = x.len := by
  simp only [vecWithWord]

theorem vecWithWord_lt (x : Vec) (k data : Nat) : (vecWithWord x k data).val < 2 ^ x.len := by
  unfold vecWithWord
  exact trunc_lt _ _

/-- Clearing bit `i` by subtraction is masking it off (R98). -/
theorem testBit_clearBit (val i j : Nat) :
    (val - 2 ^ i * (val.testBit i).toNat).testBit j = (val.testBit j && decide (j ≠ i)) := by
  cases h : val.testBit i with
  | false =>
    by_cases hj : j = i
    · subst hj; simp [h]
    · simp [hj]
  | true =>
    have hlo : val % 2 ^ i < 2 ^ i := Nat.mod_lt _ (by positivity)
    have hbit : val / 2 ^ i % 2 = 1 := by simpa [Nat.testBit_eq_decide_div_mod_eq] using h
    have hval : val = 2 ^ (i + 1) * (val / 2 ^ i / 2) + (2 ^ i + val % 2 ^ i) := by
      have h1 := Nat.div_add_mod val (2 ^ i)
      have h2 := Nat.div_add_mod (val / 2 ^ i) 2
      rw [hbit] at h2
      have h3 : 2 ^ (i + 1) * (val / 2 ^ i / 2) = 2 ^ i * (2 * (val / 2 ^ i / 2)) := by ring
      have h4 : 2 * (val / 2 ^ i / 2) = val / 2 ^ i - 1 := by omega
      have h5 : 1 ≤ val / 2 ^ i := by omega
      rw [h3, h4, Nat.mul_sub, Nat.mul_one]
      have h6 : 2 ^ i ≤ 2 ^ i * (val / 2 ^ i) := Nat.le_mul_of_pos_right _ h5
      omega
    have hpow : 2 ^ (i + 1) = 2 ^ i + 2 ^ i := by ring
    have hsub : val - 2 ^ i * true.toNat = 2 ^ (i + 1) * (val / 2 ^ i / 2) + val % 2 ^ i := by
      simp only [Bool.toNat_true, Nat.mul_one]
      omega
    rw [hsub, Nat.testBit_two_pow_mul_add _ (by omega)]
    conv_rhs => rw [hval, Nat.testBit_two_pow_mul_add _ (by omega : 2 ^ i + val % 2 ^ i < 2 ^ (i + 1))]
    split
    · next hj =>
      rcases Nat.lt_or_ge j i with hji | hji
      · rw [Nat.testBit_two_pow_add_gt hji]
        simp [Nat.ne_of_lt hji]
      · have : j = i := by omega
        subst this
        simp
    · next hj =>
      have : j ≠ i := by omega
      simp [this]

/-- A bit below `len` keeps a value below `2^len`. -/
theorem or_two_pow_lt {val len i : Nat} (hv : val < 2 ^ len) (hi : i < len) : val ||| 2 ^ i < 2 ^ len :=
  Nat.or_lt_two_pow hv (Nat.pow_lt_pow_right (by omega) hi)

theorem xor_two_pow_lt {val len i : Nat} (hv : val < 2 ^ len) (hi : i < len) : val ^^^ 2 ^ i < 2 ^ len :=
  Nat.xor_lt_two_pow hv (Nat.pow_lt_pow_right (by omega) hi)

end Sys2Proof.Machine
end

