-- ==== Sys2Proof/Laws/Noise.lean ====
section
/-! SUPPORT. The LFSR and the channel: iteration, and what one position does. -/

namespace Sys2Proof.Machine

theorem lfsrSteps_eq_iterate (n : Nat) (s : Word) : lfsrSteps n s = lfsrStep^[n] s := by
  induction n generalizing s with
  | zero => rfl
  | succ n ih => rw [lfsrSteps, ih, Function.iterate_succ_apply]

/-- One draw is sixteen steps (R133). -/
theorem lfsrDraw_eq_iterate (s : Word) : lfsrDraw s = lfsrStep^[16] s := lfsrSteps_eq_iterate 16 s

/-- A position advances the LFSR by one draw whatever the threshold and the word (R131 (a)). -/
@[simp] theorem channelBit_lfsr (threshold i : Nat) (c : Channel) :
    (channelBit threshold i c).lfsr = lfsrDraw c.lfsr := by
  simp only [channelBit]
  split <;> rfl

theorem channelBit_out (threshold i : Nat) (c : Channel) :
    (channelBit threshold i c).out = if sampleOf (lfsrDraw c.lfsr) < threshold then c.out ^^^ 2 ^ i else c.out := by
  simp only [channelBit]
  split <;> rfl

theorem channelBit_flips (threshold i : Nat) (c : Channel) :
    (channelBit threshold i c).flips = c.flips + if sampleOf (lfsrDraw c.lfsr) < threshold then 1 else 0 := by
  simp only [channelBit]
  split <;> rfl

/-- A vector advances the LFSR by sixteen steps a position (R131 (a)). -/
theorem channel_lfsr (threshold len : Nat) (c : Channel) :
    (channel threshold len c).lfsr = lfsrStep^[16 * len] c.lfsr := by
  induction len with
  | zero => rfl
  | succ len ih =>
    rw [channel, channelBit_lfsr, ih, lfsrDraw_eq_iterate, ← Function.iterate_add_apply]
    congr 1
    ring_nf

/-- The sample of position `i` is the one drawn there (R133). -/
theorem sampleOf_channel (threshold i : Nat) (c : Channel) :
    sampleOf (lfsrDraw (channel threshold i c).lfsr) = noiseSample c.lfsr i := by
  rw [channel_lfsr, lfsrDraw_eq_iterate, ← Function.iterate_add_apply, sampleOf, noiseSample]
  congr 3
  ring_nf

end Sys2Proof.Machine
end

