-- ==== Sys2Proof/Laws/Hadamard.lean ====
section
/-! SUPPORT. The transform's lists and the peak search: lengths, entries, and what the search finds. -/

namespace Sys2Proof.Machine

@[simp] theorem length_antipodal (r c : Nat) : (antipodal r c).length = 2 ^ r := by simp [antipodal]

@[simp] theorem length_butterfly (n : Nat) (F : List Int) : (butterfly n F).length = F.length := by simp [butterfly]

@[simp] theorem length_butterflies (n : Nat) (F : List Int) : (butterflies n F).length = F.length := by
  induction n generalizing F with
  | zero => rfl
  | succ n ih => rw [butterflies, ih, length_butterfly]

/-- The transform under `r` has 2^r entries (R141). -/
@[simp] theorem length_wht (r c : Nat) : (wht r c).length = 2 ^ r := by simp [wht]

/-- Entry `k` of the antipodal mapping (R141 step 1). -/
theorem getD_antipodal {r k : Nat} (c : Nat) (hk : k < 2 ^ r) :
    (antipodal r c).getD k 0 = 1 - 2 * ((c.testBit k).toNat : Int) := by
  simp [antipodal, List.getD_eq_getElem?_getD, hk]

/-- Entry `k` after a butterfly round (R141 step 2). -/
theorem getD_butterfly (n : Nat) {F : List Int} {k : Nat} (hk : k < F.length) :
    (butterfly n F).getD k 0 =
      if k.testBit n then F.getD (k - 2 ^ n) 0 - F.getD k 0 else F.getD k 0 + F.getD (k + 2 ^ n) 0 := by
  simp [butterfly, List.getD_eq_getElem?_getD, hk]

theorem foldl_max_ge (F : List Int) (m : Nat) : m ≤ F.foldl (fun m x => max m x.natAbs) m := by
  induction F generalizing m with
  | nil => exact Nat.le_refl m
  | cons x F ih => exact le_trans (le_max_left _ _) (ih _)

theorem natAbs_le_foldl_max {F : List Int} {x : Int} (h : x ∈ F) (m : Nat) :
    x.natAbs ≤ F.foldl (fun m x => max m x.natAbs) m := by
  induction F generalizing m with
  | nil => cases h
  | cons y F ih =>
    rcases List.mem_cons.mp h with rfl | h
    · exact le_trans (le_max_right _ _) (foldl_max_ge F _)
    · exact ih h _

theorem foldl_max_attained (F : List Int) (m : Nat) :
    F.foldl (fun m x => max m x.natAbs) m = m ∨ ∃ x ∈ F, x.natAbs = F.foldl (fun m x => max m x.natAbs) m := by
  induction F generalizing m with
  | nil => exact .inl rfl
  | cons y F ih =>
    rcases ih (max m y.natAbs) with h | ⟨x, hx, h⟩
    · rcases le_total m y.natAbs with hle | hle
      · exact .inr ⟨y, List.mem_cons_self, by rw [List.foldl_cons, h]; exact (max_eq_right hle).symm⟩
      · exact .inl (by rw [List.foldl_cons, h]; exact max_eq_left hle)
    · exact .inr ⟨x, List.mem_cons_of_mem y hx, h⟩

/-- No coefficient exceeds the greatest magnitude. -/
theorem natAbs_le_maxMagnitude {F : List Int} {x : Int} (h : x ∈ F) : x.natAbs ≤ maxMagnitude F :=
  natAbs_le_foldl_max h 0

/-- Some coefficient has the greatest magnitude. -/
theorem maxMagnitude_attained {F : List Int} (hF : F ≠ []) : ∃ x ∈ F, x.natAbs = maxMagnitude F := by
  rcases foldl_max_attained F 0 with h | h
  · obtain ⟨y, hy⟩ := List.exists_mem_of_ne_nil F hF
    have := natAbs_le_maxMagnitude hy
    have h0 : maxMagnitude F = 0 := h
    exact ⟨y, hy, by omega⟩
  · exact h

/-- The peak is an index of the file. -/
theorem peakIndex_lt {F : List Int} (hF : F ≠ []) : peakIndex F < F.length := by
  obtain ⟨x, hx, h⟩ := maxMagnitude_attained hF
  exact List.findIdx_lt_length_of_exists ⟨x, hx, by simpa using h⟩

/-- The peak has the greatest magnitude (R146). -/
theorem natAbs_peakValue {F : List Int} (hF : F ≠ []) : (peakValue F).natAbs = maxMagnitude F := by
  have hlt : (F.findIdx fun x => x.natAbs == maxMagnitude F) < F.length := peakIndex_lt hF
  have := List.findIdx_getElem (p := fun x : Int => x.natAbs == maxMagnitude F) (xs := F) (w := hlt)
  rw [peakValue, peakIndex, List.getD_eq_getElem?_getD, List.getElem?_eq_getElem hlt]
  simpa using this

/-- The peak is the lowest index of its magnitude (R146). -/
theorem natAbs_lt_before_peak {F : List Int} {k : Nat} (hk : k < peakIndex F) (hF : F ≠ []) :
    (F.getD k 0).natAbs < maxMagnitude F := by
  have hlen : k < F.length := Nat.lt_trans hk (peakIndex_lt hF)
  have hne := List.not_of_lt_findIdx hk
  rw [List.getD_eq_getElem?_getD, List.getElem?_eq_getElem hlen]
  have hle := natAbs_le_maxMagnitude (List.getElem_mem hlen)
  have : F[k].natAbs ≠ maxMagnitude F := by simpa using hne
  exact lt_of_le_of_ne hle this

end Sys2Proof.Machine
end

