-- ==== Sys2Proof/Laws/PerInstr.lean ====
section
/-! SUPPORT. One fact per instruction: its command word is a word of its own row of spec/opcode_table.json. -/

namespace Sys2Proof.Laws.InRow

/-- The command word of the instruction matches the row of its mnemonic (30_encoding.md R77). -/
def Statement (i : Instr) : Prop := ∃ row ∈ opcodeTable, row.mnemonic = i.mnemonic ∧ row.matches (encode i).cmd = true

/-- A word whose masked fields are the row's pattern matches the row. -/
theorem matches_of_fields {row : OpcodeRow} {op : BitVec 8} {vd va vb : BitVec 4} {imm : BitVec 12} {arg : Word}
    (hop : op &&& (Fields.ofCmd row.mask).op = (Fields.ofCmd row.pattern).op)
    (hvd : vd &&& (Fields.ofCmd row.mask).vd = (Fields.ofCmd row.pattern).vd)
    (hva : va &&& (Fields.ofCmd row.mask).va = (Fields.ofCmd row.pattern).va)
    (hvb : vb &&& (Fields.ofCmd row.mask).vb = (Fields.ofCmd row.pattern).vb)
    (himm : imm &&& (Fields.ofCmd row.mask).imm12 = (Fields.ofCmd row.pattern).imm12) :
    row.matches (beatOf op vd va vb imm arg).cmd = true := by
  have : (beatOf op vd va vb imm arg).cmd &&& row.mask = row.pattern := by
    apply eq_of_ofCmd_eq
    rw [ofCmd_and, ofCmd_beatOf]
    simp only [hop, hvd, hva, hvb, himm]
  simp [OpcodeRow.matches, this]

theorem nop (arg : Word) : Statement (.nop arg) :=
  ⟨opcodeTable[0], by decide, rfl, matches_of_fields (by decide) (by decide) (by decide) (by decide) (by decide)⟩

theorem csrr (k : BitVec 12) (arg : Word) : Statement (.csrr k arg) :=
  ⟨opcodeTable[1], by decide, rfl, matches_of_fields (by decide) (by decide) (by decide) (by decide) BitVec.and_zero⟩

theorem csrw (k : BitVec 12) (arg : Word) : Statement (.csrw k arg) :=
  ⟨opcodeTable[2], by decide, rfl, matches_of_fields (by decide) (by decide) (by decide) (by decide) BitVec.and_zero⟩

theorem vnew (vd : VReg) (arg : Word) : Statement (.vnew vd arg) :=
  ⟨opcodeTable[3], by decide, rfl, matches_of_fields (by decide) (by cases vd <;> decide) (by decide) (by decide) (by decide)⟩

theorem vldw (vd : VReg) (k : BitVec 12) (arg : Word) : Statement (.vldw vd k arg) :=
  ⟨opcodeTable[4], by decide, rfl, matches_of_fields (by decide) (by cases vd <;> decide) (by decide) (by decide) BitVec.and_zero⟩

theorem vrdw (va : VReg) (k : BitVec 12) (arg : Word) : Statement (.vrdw va k arg) :=
  ⟨opcodeTable[5], by decide, rfl, matches_of_fields (by decide) (by decide) (by cases va <;> decide) (by decide) BitVec.and_zero⟩

theorem vlen (va : VReg) (arg : Word) : Statement (.vlen va arg) :=
  ⟨opcodeTable[6], by decide, rfl, matches_of_fields (by decide) (by decide) (by cases va <;> decide) (by decide) (by decide)⟩

theorem vget (va : VReg) (arg : Word) : Statement (.vget va arg) :=
  ⟨opcodeTable[7], by decide, rfl, matches_of_fields (by decide) (by decide) (by cases va <;> decide) (by decide) (by decide)⟩

theorem vset (vd : VReg) (arg : Word) : Statement (.vset vd arg) :=
  ⟨opcodeTable[8], by decide, rfl, matches_of_fields (by decide) (by cases vd <;> decide) (by decide) (by decide) (by decide)⟩

theorem vclrb (vd : VReg) (arg : Word) : Statement (.vclrb vd arg) :=
  ⟨opcodeTable[9], by decide, rfl, matches_of_fields (by decide) (by cases vd <;> decide) (by decide) (by decide) (by decide)⟩

theorem vflip (vd : VReg) (arg : Word) : Statement (.vflip vd arg) :=
  ⟨opcodeTable[10], by decide, rfl, matches_of_fields (by decide) (by cases vd <;> decide) (by decide) (by decide) (by decide)⟩

theorem vnot (vd va : VReg) (arg : Word) : Statement (.vnot vd va arg) :=
  ⟨opcodeTable[11], by decide, rfl, matches_of_fields (by decide) (by cases vd <;> decide) (by cases va <;> decide) (by decide) (by decide)⟩

theorem vand (vd va vb : VReg) (arg : Word) : Statement (.vand vd va vb arg) :=
  ⟨opcodeTable[12], by decide, rfl, matches_of_fields (by decide) (by cases vd <;> decide) (by cases va <;> decide) (by cases vb <;> decide) (by decide)⟩

theorem vor (vd va vb : VReg) (arg : Word) : Statement (.vor vd va vb arg) :=
  ⟨opcodeTable[13], by decide, rfl, matches_of_fields (by decide) (by cases vd <;> decide) (by cases va <;> decide) (by cases vb <;> decide) (by decide)⟩

theorem enc (vd : VReg) (arg : Word) : Statement (.enc vd arg) :=
  ⟨opcodeTable[14], by decide, rfl, matches_of_fields (by decide) (by cases vd <;> decide) (by decide) (by decide) (by decide)⟩

theorem dec (va : VReg) (arg : Word) : Statement (.dec va arg) :=
  ⟨opcodeTable[15], by decide, rfl, matches_of_fields (by decide) (by decide) (by cases va <;> decide) (by decide) (by decide)⟩

theorem alter (vd va : VReg) (arg : Word) : Statement (.alter vd va arg) :=
  ⟨opcodeTable[16], by decide, rfl, matches_of_fields (by decide) (by cases vd <;> decide) (by cases va <;> decide) (by decide) (by decide)⟩

theorem fht (va : VReg) (arg : Word) : Statement (.fht va arg) :=
  ⟨opcodeTable[17], by decide, rfl, matches_of_fields (by decide) (by decide) (by cases va <;> decide) (by decide) (by decide)⟩

theorem frd (arg : Word) : Statement (.frd arg) :=
  ⟨opcodeTable[18], by decide, rfl, matches_of_fields (by decide) (by decide) (by decide) (by decide) (by decide)⟩

theorem fmax (arg : Word) : Statement (.fmax arg) :=
  ⟨opcodeTable[19], by decide, rfl, matches_of_fields (by decide) (by decide) (by decide) (by decide) (by decide)⟩

theorem unalter (vd va : VReg) (arg : Word) : Statement (.unalter vd va arg) :=
  ⟨opcodeTable[20], by decide, rfl, matches_of_fields (by decide) (by cases vd <;> decide) (by cases va <;> decide) (by decide) (by decide)⟩

end Sys2Proof.Laws.InRow
end

