-- ==== Sys2Proof/Tests/Slice0.lean ====
section
/-! SUPPORT. Tests of the model on the vectors of spec/95_test_vectors.md (the section is named at each test; where none
is, the value is the named rule's own example), and a witness for every obligation that has hypotheses. -/

set_option Elab.async false

namespace Sys2Proof.Tests

open Sys2Proof.Machine

/-! ### Small states and observations -/

/-- The registers of 95_test_vectors.md section 6. -/
def loaded : State := { State.reset with v0 := ⟨8, 0xA5⟩, v1 := ⟨8, 0x0F⟩, v3 := ⟨4, 0x5⟩ }

/-- `loaded`, with `R = r`. -/
def configured (r : Nat) : State := { loaded with codec := some ⟨r, none⟩ }

/-- The coefficients of `0xE5` (43_hadamard.md R143). -/
def coeffsE5 : List Int := [-2, -2, 2, 2, 2, -6, -2, -2]

/-- `loaded` with `R = 3` and `coeffsE5` in the file. -/
def transformed : State := { loaded with codec := some ⟨3, some ⟨coeffsE5, none⟩⟩ }

/-- `transformed` after the peak search (43_hadamard.md R145). -/
def searched : State := { loaded with codec := some ⟨3, some ⟨coeffsE5, some ⟨5, 0xFFFFFFFA, 1, 13⟩⟩⟩ }

/-- The next state of an outcome. -/
def after : Outcome → Option State
  | .next s => some s
  | .fault _ => none
  | .refused _ => none

/-- The response to an instruction. -/
def answer (i : Instr) (s : State) : Option Response := (after (exec i s)).bind (·.rsp)

/-- The status and the `STATUS`, `ECMD`, `EARG` a beat leaves. -/
def record (b : Beat) (s : State) : Option (Option Status × Word × Word × Word) :=
  (after (execBeat b s)).map fun t => (t.rsp.map (·.status), t.statusWord, t.ecmd, t.earg)

/-- A vector register after an instruction. -/
def vectorAfter (i : Instr) (n : VReg) (s : State) : Option Vec := (after (exec i s)).map (·.v n)

/-! ### Well-formedness: each check refuses an ill-formed term -/

theorem test_wellFormed_refuses_read_of_missing_register : (Instr.csrr 0x00C 0).wellFormed = false := by decide
theorem test_wellFormed_refuses_write_of_missing_register : (Instr.csrw 0x00C 0).wellFormed = false := by decide
theorem test_wellFormed_refuses_write_of_read_only_register : (Instr.csrw 0x000 5).wellFormed = false := by decide
theorem test_wellFormed_takes_last_register : (Instr.csrr 0x00B 0).wellFormed = true := by decide
theorem test_wellFormed_takes_writable_register : (Instr.csrw 0x004 8).wellFormed = true := by decide

/-! ### Decoding, section 2.1: a written-out word of every instruction -/

theorem test_decode_system :
    decode ⟨0x00000000, 0⟩ = .ok (.nop 0) ∧ decode ⟨0x0100000B, 0⟩ = .ok (.csrr 0x00B 0) ∧
    decode ⟨0x02000003, 0xDEADBEEF⟩ = .ok (.csrw 0x003 0xDEADBEEF) := by decide

theorem test_decode_creation_and_conversion :
    decode ⟨0x10100000, 8⟩ = .ok (.vnew .V1 8) ∧ decode ⟨0x11200001, 0xFFFFFFFF⟩ = .ok (.vldw .V2 1 0xFFFFFFFF) ∧
    decode ⟨0x12010000, 0⟩ = .ok (.vrdw .V1 0 0) ∧ decode ⟨0x13030000, 0⟩ = .ok (.vlen .V3 0) := by decide

theorem test_decode_bits :
    decode ⟨0x14000000, 7⟩ = .ok (.vget .V0 7) ∧ decode ⟨0x15000000, 1⟩ = .ok (.vset .V0 1) ∧
    decode ⟨0x16300000, 0⟩ = .ok (.vclrb .V3 0) ∧ decode ⟨0x17000000, 6⟩ = .ok (.vflip .V0 6) := by decide

theorem test_decode_whole_vectors :
    decode ⟨0x18100000, 0⟩ = .ok (.vnot .V1 .V0 0) ∧ decode ⟨0x19201000, 0⟩ = .ok (.vand .V2 .V0 .V1 0) ∧
    decode ⟨0x1A301000, 0⟩ = .ok (.vor .V3 .V0 .V1 0) := by decide

theorem test_decode_codec_and_channel :
    decode ⟨0x20300000, 7⟩ = .ok (.enc .V3 7) ∧ decode ⟨0x21010000, 0⟩ = .ok (.dec .V1 0) ∧
    decode ⟨0x30100000, 0x4000⟩ = .ok (.alter .V1 .V0 0x4000) := by decide

theorem test_decode_hadamard :
    decode ⟨0x40000000, 0⟩ = .ok (.fht .V0 0) ∧ decode ⟨0x41000000, 5⟩ = .ok (.frd 5) ∧
    decode ⟨0x42000000, 0⟩ = .ok (.fmax 0) ∧ decode ⟨0x43100000, 0⟩ = .ok (.unalter .V1 .V0 0) := by decide

/-! Section 2.2: rejected words. -/

theorem test_decode_rejects_reserved_opcodes :
    decode ⟨0x03000000, 0⟩ = .error .reservedOpcode ∧ decode ⟨0x1B000000, 0⟩ = .error .reservedOpcode ∧
    decode ⟨0x44000000, 0⟩ = .error .reservedOpcode ∧ decode ⟨0xFF000000, 0⟩ = .error .reservedOpcode := by decide

theorem test_decode_rejects_unused_fields :
    decode ⟨0x00000001, 0⟩ = .error .unusedFieldNotZero ∧ decode ⟨0x01100000, 0⟩ = .error .unusedFieldNotZero ∧
    decode ⟨0x13001000, 0⟩ = .error .unusedFieldNotZero ∧ decode ⟨0x43001000, 0⟩ = .error .unusedFieldNotZero := by
  decide

theorem test_decode_rejects_missing_registers :
    decode ⟨0x10400000, 8⟩ = .error .noSuchRegister ∧ decode ⟨0x19234000, 0⟩ = .error .noSuchRegister := by decide

/-! ### Fetching -/

theorem test_decodeTableWord_reads_both_words :
    decodeTableWord 64 0x00000007_20300000 = some (.enc .V3 7) ∧ decodeTableWord 32 0x42000000 = some (.fmax 0) := by
  decide

theorem test_step_runs_the_presented_word :
    (after (step (State.reset.withFetchWord 64 0x00000008_10100000))).map (·.v .V1) = some ⟨8, 0⟩ := by decide

/-- 30_encoding.md R81: the response waits, and is then transferred. -/
theorem test_response_is_taken :
    after (core.run 2 { State.reset with inputs := hostProgram [⟨0x01000000, 0⟩] }) =
      some { State.reset with taken := [⟨.ok, 0x524D0001⟩] } := by decide

/-! ### System commands, section 7 -/

theorem test_nop_ignores_arg : after (exec (.nop 0xFFFFFFFF) loaded) = some { loaded with rsp := some ⟨.ok, 0⟩ } := by
  decide

theorem test_csrr_reads : answer (.csrr 0x001 0) State.reset = some ⟨.ok, 0x00000405⟩ := by decide

theorem test_csrr_raises : record ⟨0x01000005, 0⟩ State.reset =
    some (some (.error .noResult), 0x00000048, 0x01000005, 0) := by decide

theorem test_csrw_sets_r : record ⟨0x02000002, 5⟩ State.reset = some (some .ok, 0x00000001, 0, 0) := by decide

theorem test_csrw_raises : record ⟨0x02000002, 6⟩ State.reset =
    some (some (.error .invalidParameter), 0x00000028, 0x02000002, 6) := by decide

/-! ### The bit-vector unit, section 6 -/

theorem test_vnew : vectorAfter (.vnew .V0 32) .V0 loaded = some ⟨32, 0⟩ := by decide
theorem test_vnew_raises : answer (.vnew .V0 33) loaded = some ⟨.error .invalidParameter, 0⟩ := by decide
theorem test_vldw_drops_bits : vectorAfter (.vldw .V3 0 0x1A5) .V3 loaded = some ⟨4, 0x5⟩ := by decide
theorem test_vrdw : answer (.vrdw .V0 0 0) loaded = some ⟨.ok, 0xA5⟩ := by decide
theorem test_vrdw_raises : answer (.vrdw .V0 1 0) loaded = some ⟨.error .badIndex, 0⟩ := by decide
theorem test_vlen : answer (.vlen .V0 0) loaded = some ⟨.ok, 8⟩ := by decide
theorem test_vget : answer (.vget .V0 7) loaded = some ⟨.ok, 1⟩ := by decide
theorem test_vget_compares_whole_arg : answer (.vget .V0 0x00010000) loaded = some ⟨.error .badIndex, 0⟩ := by decide
theorem test_vset : vectorAfter (.vset .V0 1) .V0 loaded = some ⟨8, 0xA7⟩ := by decide
theorem test_vset_of_a_one : vectorAfter (.vset .V0 0) .V0 loaded = some ⟨8, 0xA5⟩ := by decide
theorem test_vclrb : vectorAfter (.vclrb .V0 0) .V0 loaded = some ⟨8, 0xA4⟩ := by decide
theorem test_vclrb_of_a_zero : vectorAfter (.vclrb .V0 1) .V0 loaded = some ⟨8, 0xA5⟩ := by decide
theorem test_vflip : vectorAfter (.vflip .V0 6) .V0 loaded = some ⟨8, 0xE5⟩ := by decide
theorem test_vnot_in_place : vectorAfter (.vnot .V3 .V3 0) .V3 loaded = some ⟨4, 0xA⟩ := by decide
theorem test_vand : vectorAfter (.vand .V2 .V0 .V1 0) .V2 loaded = some ⟨8, 0x05⟩ := by decide
theorem test_vor : vectorAfter (.vor .V2 .V0 .V1 0) .V2 loaded = some ⟨8, 0xAF⟩ := by decide
theorem test_vor_raises : answer (.vor .V2 .V0 .V3 0) loaded = some ⟨.error .lenMismatch, 0⟩ := by decide

/-! ### The codec, section 3 -/

theorem test_encode : rmEncode 3 13 = 0xA5 ∧ rmEncode 4 19 = 0x9999 ∧ rmEncode 0 1 = 1 := by decide +kernel
theorem test_encode_wide : rmEncode 6 0x55 = 0x5A5AA5A55A5AA5A5 := by decide +kernel
theorem test_enc_ignores_high_bits : vectorAfter (.enc .V2 0xFFFFFFFD) .V2 (configured 3) = some ⟨8, 0xA5⟩ := by
  decide +kernel
theorem test_decode_values : rmDecode 2 0xB = 6 ∧ rmDecode 3 0xA4 = 2 ∧ rmDecode 4 0x8993 = 18 := by decide +kernel
theorem test_dec : answer (.dec .V0 0) (configured 3) = some ⟨.ok, 13⟩ := by decide +kernel
theorem test_dec_zero_extends : answer (.dec .V3 0) (configured 3) = some ⟨.ok, 13⟩ := by decide +kernel

/-! ### The noise channel, section 5 -/

theorem test_lfsr_steps : lfsrStep 0x00000001 = 0x80200003 ∧ lfsrStep 0xFFFFFFFF = 0xFFDFFFFC ∧
    lfsrDraw 0x00000001 = 0xB6F6B6C3 ∧ lfsrDraw 0xDEADBEEF = 0xE4C0E0EF := by decide +kernel

theorem test_channel_long : channel 0x3000 16 ⟨1, 0x9999, 0⟩ = ⟨0x875E9ED7, 0x8991, 2⟩ := by decide +kernel

theorem test_alter : (after (exec (.alter .V2 .V0 0x8000) { loaded with lfsr := 0xDEADBEEF })).map
    (fun t => (t.v2, t.flips, t.lfsr)) = some (⟨8, 0xC7⟩, 3, 0x02109929) := by decide +kernel

theorem test_alter_raises : answer (.alter .V2 .V0 65537) loaded = some ⟨.error .invalidParameter, 0⟩ := by decide

/-! ### The Hadamard engine, section 4 -/

/-- Section 4.3: the vector that tells the corrected butterfly from the printed one. -/
theorem test_transform_corrected : wht 1 1 = [0, -2] ∧ wht 3 0xAA = [0, 8, 0, 0, 0, 0, 0, 0] := by decide +kernel

theorem test_transform_values : wht 3 0x17 = [0, -4, -4, 0, -4, 0, 0, 4] ∧
    wht 4 0x9888 = [6, 6, 6, -10, 2, 2, 2, 2, 2, 2, 2, 2, -2, -2, -2, -2] ∧ wht 0 1 = [-1] := by decide +kernel

theorem test_fht : (after (exec (.fht .V0 0) { configured 3 with v0 := ⟨8, 0xE5⟩ })).map (·.codec) =
    some transformed.codec := by decide +kernel

theorem test_frd : answer (.frd 5) transformed = some ⟨.ok, 0xFFFFFFFA⟩ := by decide +kernel
theorem test_frd_raises : answer (.frd 8) transformed = some ⟨.error .badIndex, 0⟩ := by decide +kernel

theorem test_fmax : after (exec (.fmax 0) transformed) = some { searched with rsp := some ⟨.ok, 13⟩ } := by
  decide +kernel

theorem test_fmax_breaks_ties_low : peakOf 3 [0, -4, -4, 0, -4, 0, 0, 4] = ⟨1, 0xFFFFFFFC, 2, 9⟩ := by decide +kernel

theorem test_unalter : (after (exec (.unalter .V0 .V0 0) { configured 3 with v0 := ⟨8, 0xE5⟩ })).map
    (fun t => (t.v0, t.peak?)) = some (⟨8, 0xA5⟩, some ⟨5, 0xFFFFFFFA, 1, 13⟩) := by decide +kernel

theorem test_unalter_beyond_guarantee : vectorAfter (.unalter .V2 .V0 0) .V2
    { configured 4 with v0 := ⟨16, 0x8888⟩ } = some ⟨16, 0x0000⟩ := by decide +kernel

/-! ### Witnesses: states and operands that meet the hypotheses of the obligations -/

theorem witness_EncodeOfDecodeIsTheBeat : decode ⟨0x11200001, 0xFFFFFFFF⟩ = .ok (.vldw .V2 1 0xFFFFFFFF) := by decide

theorem witness_DecoderAcceptsExactlyTheTableRows :
    decode ⟨0x43330000, 0⟩ = .ok (.unalter .V3 .V3 0) ∧
    ∃ row ∈ opcodeTable, row.matches 0x43330000 = true ∧ row.mnemonic = "UNALTER" := by decide

theorem witness_IllegalCommandIsDecidedByTheWordAlone :
    LegalCommand 0x02000004 ∧ ¬ LegalCommand 0x02000005 ∧ LegalCommand 0x0100000B ∧ ¬ LegalCommand 0x0100000C ∧
    ¬ LegalCommand 0x10400000 ∧ LegalCommand 0x11300FFF ∧ ¬ LegalCommand 0x44000000 ∧ ¬ LegalCommand 0x42000001 := by
  refine ⟨?_, ?_, ?_, ?_, ?_, ?_, ?_, ?_⟩ <;> (unfold LegalCommand RegisterFieldLegal; dsimp only; decide)

/-- A drive that presents a beat to an idle block. -/
def presenting (b : Beat) : State := { loaded with inputs := [presentBeat b, takeResponse] }

theorem witness_StepRunsTheDecodedCommand :
    (presenting ⟨0x00000000, 9⟩).inputs = presentBeat ⟨0x00000000, 9⟩ :: [takeResponse] ∧
    (presentBeat ⟨0x00000000, 9⟩).rst = false ∧ (presentBeat ⟨0x00000000, 9⟩).cmd = some ⟨0x00000000, 9⟩ ∧
    (presenting ⟨0x00000000, 9⟩).rsp = none ∧ decode ⟨0x00000000, 9⟩ = .ok (.nop 9) := by decide

theorem witness_StepRaisesOnARejectedWord :
    (presenting ⟨0x44000000, 9⟩).inputs = presentBeat ⟨0x44000000, 9⟩ :: [takeResponse] ∧
    (presentBeat ⟨0x44000000, 9⟩).rst = false ∧ (presentBeat ⟨0x44000000, 9⟩).cmd = some ⟨0x44000000, 9⟩ ∧
    (presenting ⟨0x44000000, 9⟩).rsp = none ∧ decode ⟨0x44000000, 9⟩ = .error .reservedOpcode := by decide

/-- A block with a response pending, under a given drive. -/
def pending (p : PortIn) : State := { loaded with rsp := some ⟨.ok, 7⟩, inputs := [p] }

theorem witness_PendingResponseWaitsForTheHost :
    ((pending takeResponse).inputs = takeResponse :: [] ∧ takeResponse.rst = false ∧
      (pending takeResponse).rsp = some ⟨.ok, 7⟩ ∧ takeResponse.rspReady = true) ∧
    ((pending ⟨false, some ⟨0, 0⟩, false⟩).inputs = ⟨false, some ⟨0, 0⟩, false⟩ :: [] ∧
      (pending ⟨false, some ⟨0, 0⟩, false⟩).rsp = some ⟨.ok, 7⟩) := by decide

theorem witness_IdleBlockHoldsItsState :
    loaded.inputs = [] ∧ { loaded with inputs := [takeResponse] }.inputs = takeResponse :: [] ∧
    takeResponse.rst = false ∧ takeResponse.cmd = none ∧ loaded.rsp = none := by decide

theorem witness_ResetEventGivesTheResetState :
    (pending ⟨true, none, true⟩).inputs = ⟨true, none, true⟩ :: [] ∧ (⟨true, none, true⟩ : PortIn).rst = true := by
  decide

theorem witness_ProgramRunIsTheFoldOfItsCommands : loaded.rsp = none ∧ loaded.inputs = [] := by decide

theorem witness_RaisingWritesOnlyTheTrapRecord :
    (∃ t, execBeat ⟨0x14000000, 8⟩ loaded = .next t ∧ t.rsp = some ⟨.error .badIndex, 0⟩) ∧
    (∃ t, execBeat ⟨0x14000000, 7⟩ loaded = .next t ∧ t.rsp = some ⟨.ok, 1⟩) ∧
    (∃ t, execBeat ⟨0x02000004, 8⟩ { loaded with err := true, cause := .error .badIndex } = .next t ∧
      t.rsp = some ⟨.ok, 0⟩) := ⟨⟨_, rfl, rfl⟩, ⟨_, rfl, rfl⟩, ⟨_, rfl, rfl⟩⟩

theorem witness_ErrorsFollowTheTable :
    expectedError (.frd 100) (configured 3) = some .noResult ∧ expectedError (.frd 8) transformed = some .badIndex ∧
    expectedError (.frd 7) transformed = none ∧ expectedError (.csrr 0x00C 0) loaded = some .illegalCommand ∧
    expectedError (.csrw 0x002 6) loaded = some .invalidParameter ∧ expectedError (.csrw 0x002 5) loaded = none := by
  decide

theorem witness_TrapRecordInfluencesNothing :
    SameButRecord loaded { loaded with err := true, cause := .error .noResult, ecmd := 1, earg := 2 } ∧
    ∀ n a, Instr.csrr 0x003 0 = .csrr n a → n ≠ 0x004 ∧ n ≠ 0x00A ∧ n ≠ 0x00B :=
  ⟨rfl, by rintro n a ⟨⟩; decide⟩

theorem witness_OnlyResetClearsRvalid : ∃ t, (configured 3).rvalid = true ∧ (configured 3).portIn.rst = false ∧
    step (configured 3) = .next t := ⟨_, rfl, rfl, rfl⟩

theorem witness_NopDoesNothing : (Fields.ofCmd 0x00000001).op = 0x00 ∧ (0x00000001 : Word) ≠ 0 := by decide

theorem witness_CsrrReadsTheControlRegister :
    (0x00B < (0x00C : BitVec 12).toNat) ∧ ((0x00B : BitVec 12).toNat ≤ 0x00B) ∧
    (loaded.rvalid = false ∧ loaded.mvalid = false) ∧ ((configured 3).rvalid = true ∧ (configured 3).param? = some 3) ∧
    (searched.mvalid = true ∧ searched.peak? = some ⟨5, 0xFFFFFFFA, 1, 13⟩) ∧
    ((Fields.ofCmd 0x01001000).op = 0x01 ∧ (Fields.ofCmd 0x01001000).vb ≠ 0) := by decide

theorem witness_CsrwWritesTheControlRegister :
    ((0x005 : BitVec 12) ≠ 0x002 ∧ (0x005 : BitVec 12) ≠ 0x003 ∧ (0x005 : BitVec 12) ≠ 0x004) ∧
    loaded.rMax < (6 : Word).toNat ∧ (5 : Word).toNat ≤ loaded.rMax ∧ (1 : Word) ≠ 0 ∧
    ((Fields.ofCmd 0x02010000).op = 0x02 ∧ (Fields.ofCmd 0x02010000).va ≠ 0) := by decide

theorem witness_VnewCreatesTheZeroVector :
    2 ^ loaded.rMax < (33 : Word).toNat ∧ (32 : Word).toNat ≤ 2 ^ loaded.rMax := by decide

theorem witness_VldwWritesOneWord :
    max 1 (2 ^ loaded.rMax / 32) ≤ (1 : BitVec 12).toNat ∧ (0 : BitVec 12).toNat < max 1 (2 ^ loaded.rMax / 32) ∧
    7 < (loaded.v .V0).len := by decide

theorem witness_VrdwReadsOneWord :
    max 1 (2 ^ loaded.rMax / 32) ≤ (1 : BitVec 12).toNat ∧ (0 : BitVec 12).toNat < max 1 (2 ^ loaded.rMax / 32) ∧
    (loaded.v .V0).val < 2 ^ (loaded.v .V0).len ∧ (loaded.v .V0).len ≤ 32 * (0 : BitVec 12).toNat + 8 := by decide

theorem witness_VgetReadsOneBit : (loaded.v .V0).len ≤ (8 : Word).toNat ∧ (7 : Word).toNat < (loaded.v .V0).len := by
  decide
theorem witness_VsetSetsOneBit : (loaded.v .V3).len ≤ (4 : Word).toNat ∧ (3 : Word).toNat < (loaded.v .V3).len := by
  decide
theorem witness_VclrbClearsOneBit : (loaded.v .V3).len ≤ (4 : Word).toNat ∧ (3 : Word).toNat < (loaded.v .V3).len := by
  decide
theorem witness_VflipInvertsOneBit : (loaded.v .V3).len ≤ (4 : Word).toNat ∧ (3 : Word).toNat < (loaded.v .V3).len := by
  decide

theorem witness_VnotComplementsEveryBit : (loaded.v .V0).val < 2 ^ (loaded.v .V0).len ∧ 7 < (loaded.v .V0).len := by
  decide

theorem witness_VandCombinesBitwise :
    (loaded.v .V0).len ≠ (loaded.v .V3).len ∧ (loaded.v .V0).len = (loaded.v .V1).len := by decide
theorem witness_VorCombinesBitwise :
    (loaded.v .V3).len ≠ (loaded.v .V1).len ∧ (loaded.v .V1).len = (loaded.v .V0).len := by decide

theorem witness_EncWritesTheCodeword : loaded.rvalid = false ∧ (configured 5).param? = some 5 := by decide
theorem witness_DecAnswersTheMessage : loaded.rvalid = false ∧ (configured 5).param? = some 5 ∧ 4 < 5 ∧ 5 ≤ 16 := by
  decide
theorem witness_FhtLoadsTheTransform : loaded.rvalid = false ∧ (configured 0).param? = some 0 := by decide
theorem witness_UnalterIsFhtFmaxEnc : loaded.rvalid = false ∧ (configured 5).param? = some 5 ∧ 5 ≤ 16 := by decide

theorem witness_EncodeIsXorOfGeneratorRows : 2 < 3 ∧ 7 < 2 ^ 3 := by decide

theorem witness_DistinctCodewordsAreFarApart :
    (5 < 2 ^ (3 + 1) ∧ 13 < 2 ^ (3 + 1) ∧ 5 ≠ 13 ∧ 5 ^^^ 13 = 2 ^ 3) ∧ (0 < 2 ^ (0 + 1) ∧ 1 < 2 ^ (0 + 1) ∧ 0 ≠ 1) ∧
    (14 < 2 ^ (3 + 1) ∧ 15 < 2 ^ (3 + 1) ∧ 14 ^^^ 15 ≠ 2 ^ 3) := by decide

theorem witness_DecodeInvertsEncode : 15 < 2 ^ (3 + 1) ∧ (configured 3).param? = some 3 ∧ 3 ≤ 16 := by decide

theorem witness_CodewordSplitsIntoHalves : 1 ≤ 1 := by decide

theorem witness_AlterFlipsTheSampledBits :
    65536 < (65537 : Word).toNat ∧ (65536 : Word).toNat ≤ 65536 ∧ (0 : Word).toNat ≤ 65536 ∧ loaded.lfsr ≠ 0 := by
  decide

theorem witness_LfsrStepIsALinearBijection : (0xDEADBEEF : Word) ≠ 0 := by decide

theorem witness_AlterAtTheExtremes :
    (loaded.v .V0).len ≤ 65536 ∧ (loaded.v .V0).val < 2 ^ (loaded.v .V0).len := by decide

theorem witness_AlterFlipsAreCountedAndMonotone :
    (loaded.v .V0).len ≤ 65536 ∧ (0x4000 : Word).toNat ≤ (65536 : Word).toNat ∧ (65536 : Word).toNat ≤ 65536 := by
  decide

theorem witness_FrdReadsOneCoefficient :
    (configured 3).fvalid = false ∧ transformed.param? = some 3 ∧ transformed.transform? = some ⟨coeffsE5, none⟩ ∧
    2 ^ 3 ≤ (8 : Word).toNat ∧ (7 : Word).toNat < 2 ^ 3 := by decide

theorem witness_FmaxFindsThePeak :
    (configured 3).fvalid = false ∧ transformed.param? = some 3 ∧ transformed.transform? = some ⟨coeffsE5, none⟩ ∧
    3 ≤ 16 ∧ coeffsE5.length = 2 ^ 3 := by decide

theorem witness_TransformIsTheWalshSum : 7 < 2 ^ 3 ∧ 0 < 2 ^ 0 := by decide
theorem witness_CoefficientsMeasureAgreement : 7 < 2 ^ 3 ∧ 3 ≤ 5 := by decide

theorem witness_CodewordsAreTheSinglePeaks :
    0xA5 < 2 ^ 2 ^ 3 ∧ 13 < 2 ^ (3 + 1) ∧ 0xA5 = rmEncode 3 13 ∧ (wht 3 0xA5).getD 5 0 = -(2 ^ 3) := by decide +kernel

theorem witness_UnalterLeavesCodewordsUnchanged :
    (configured 3).param? = some 3 ∧ 3 ≤ 16 ∧ 13 < 2 ^ (3 + 1) ∧
    ((configured 3).v .V0).val % 2 ^ 2 ^ 3 = rmEncode 3 13 := by decide +kernel

/-- One flip is the limit of the guarantee for r = 3. -/
theorem witness_UnalterCorrectsWithinTheGuarantee :
    (configured 3).param? = some 3 ∧ 2 ≤ 3 ∧ 3 ≤ 16 ∧ 13 < 2 ^ (3 + 1) ∧
    hammingDistance (2 ^ 3) ({ configured 3 with v0 := ⟨8, 0xE5⟩ }.v .V0).val (rmEncode 3 13) ≤ 2 ^ (3 - 2) - 1 := by
  decide +kernel

theorem witness_UnalterReturnsANearestCodeword : (configured 4).param? = some 4 ∧ 4 ≤ 16 := by decide

/-- `searched`, with `VSET V0, 1` presented. -/
def searchedBusy : State := { searched with inputs := [presentBeat ⟨0x15000000, 1⟩] }

/-- A state with a transform and a peak search satisfies the invariant. -/
theorem witness_searchedBusy_inv : searchedBusy.Inv where
  legal := by decide
  vectors := by intro n; cases n <;> (unfold Vec.Ok; decide)
  codec := by
    rintro c ⟨⟩
    refine ⟨by decide, ?_⟩
    rintro t ⟨⟩
    refine ⟨⟨0xE5, by decide +kernel, by decide +kernel⟩, ?_⟩
    rintro p ⟨⟩
    unfold Peak.Of
    decide +kernel
  lfsr := by decide
  record := by intro _; rfl
  flips := by decide

theorem witness_VlenReadsTheLength : searchedBusy.Inv := witness_searchedBusy_inv

theorem witness_ResetSatisfiesTheInvariant : Config.LegalRMax 1 ∧ Config.LegalRMax 16 := by decide

theorem witness_StepKeepsTheInvariant :
    ∃ t, searchedBusy.Inv ∧ step searchedBusy = .next t ∧ t.v0 = ⟨8, 0xA7⟩ ∧ t.fvalid = true ∧ t.mvalid = true :=
  ⟨_, witness_searchedBusy_inv, rfl, rfl, rfl, rfl⟩

theorem witness_OnlyNamedCommandsWriteARegister :
    (∃ t, exec (.vset .V0 1) loaded = .next t) ∧ writtenVector (.vset .V0 1) ≠ some .V1 ∧
    (∃ t, exec (.csrw 0x003 9) loaded = .next t ∧ t.lfsr ≠ loaded.lfsr) ∧
    ((after (exec (.alter .V2 .V0 65536) loaded)).map fun t => decide (t.flips ≠ loaded.flips)) = some true :=
  ⟨⟨_, rfl⟩, by decide, ⟨_, rfl, by decide⟩, by decide +kernel⟩

theorem witness_FlagsFollowTheTable :
    (∃ t, exec (.frd 100) (configured 3) = .next t ∧ t.rsp = some ⟨.error .noResult, 0⟩) ∧
    (∃ t, exec (.csrw 0x002 5) searched = .next t ∧ t.rsp = some ⟨.ok, 0⟩) ∧
    (∃ t, exec (.csrw 0x004 8) searched = .next t ∧ t.rsp = some ⟨.ok, 0⟩) ∧
    (answer (.fmax 0) transformed = some ⟨.ok, 13⟩ ∧ flagEvent (.fmax 0) = .peak) ∧
    (answer (.fht .V0 0) (configured 3) = some ⟨.ok, 0⟩ ∧ flagEvent (.fht .V0 0) = .transform) :=
  ⟨⟨_, rfl, rfl⟩, ⟨_, rfl, rfl⟩, ⟨_, rfl, rfl⟩, by decide +kernel, by decide +kernel⟩

theorem witness_ReadCommandsChangeNothing :
    (∃ va a, Instr.vget .V0 8 = .vget va a) ∧ answer (.vget .V0 8) loaded = some ⟨.error .badIndex, 0⟩ ∧
    (∃ va k a, Instr.vrdw .V0 0 0 = .vrdw va k a) ∧ answer (.vrdw .V0 0 0) loaded = some ⟨.ok, 0xA5⟩ :=
  ⟨⟨_, _, rfl⟩, by decide, ⟨_, _, _, rfl⟩, by decide⟩

end Sys2Proof.Tests
end

