-- ==== Sys2Proof/Proofs/ResetState.lean ====
section
/-! PROOF. The reset state (spec/10_state.md R42): what each cell holds, what the flags and `STATUS` read while no codec is
configured, and when the command port is ready. -/

namespace Sys2Proof.Machine

/-! ### The cells of the reset state -/

section resetOf
variable (rMax : Nat)

@[simp] theorem State.resetOf_v (n : VReg) : (State.resetOf rMax).v n = ⟨0, 0⟩ := by cases n <;> rfl
@[simp] theorem State.resetOf_codec : (State.resetOf rMax).codec = none := rfl
@[simp] theorem State.resetOf_lfsr : (State.resetOf rMax).lfsr = Config.lfsrReset := rfl
@[simp] theorem State.resetOf_err : (State.resetOf rMax).err = false := rfl
@[simp] theorem State.resetOf_cause : (State.resetOf rMax).cause = .ok := rfl
@[simp] theorem State.resetOf_flips : (State.resetOf rMax).flips = 0 := rfl
@[simp] theorem State.resetOf_ecmd : (State.resetOf rMax).ecmd = 0 := rfl
@[simp] theorem State.resetOf_earg : (State.resetOf rMax).earg = 0 := rfl
@[simp] theorem State.resetOf_rsp : (State.resetOf rMax).rsp = none := rfl

end resetOf

/-! ### A state without a codec: the nesting of R39 makes every validity flag 0 -/

section noCodec
variable {s : State}

theorem State.param?_of_codec_none (h : s.codec = none) : s.param? = none := by
  simp [State.param?, h]

theorem State.transform?_of_codec_none (h : s.codec = none) : s.transform? = none := by
  simp [State.transform?, h]

theorem State.peak?_of_codec_none (h : s.codec = none) : s.peak? = none := by
  simp [State.peak?, State.transform?_of_codec_none h]

theorem State.rvalid_of_codec_none (h : s.codec = none) : s.rvalid = false := by
  simp [State.rvalid, State.param?_of_codec_none h]

theorem State.fvalid_of_codec_none (h : s.codec = none) : s.fvalid = false := by
  simp [State.fvalid, State.transform?_of_codec_none h]

theorem State.mvalid_of_codec_none (h : s.codec = none) : s.mvalid = false := by
  simp [State.mvalid, State.peak?_of_codec_none h]

/-- Only `ERR` and `CAUSE` are left of `STATUS` (R32) while `R` holds no value. -/
theorem State.statusWord_of_codec_none (h : s.codec = none) :
    s.statusWord = zext32 (8 * s.err.toNat + 16 * s.cause.code) := by
  simp [State.statusWord, State.rvalid_of_codec_none h, State.fvalid_of_codec_none h, State.mvalid_of_codec_none h]

end noCodec

theorem State.statusWord_resetOf (rMax : Nat) : (State.resetOf rMax).statusWord = 0x00000000 :=
  calc (State.resetOf rMax).statusWord
      = zext32 (8 * false.toNat + 16 * Status.ok.code) := State.statusWord_of_codec_none (State.resetOf_codec rMax)
    _ = 0x00000000 := by decide

/-! ### The command port -/

@[simp] theorem State.portIn_with_inputs_cons (s : State) (p : PortIn) (rest : List PortIn) :
    ({ s with inputs := p :: rest } : State).portIn = p := rfl

/-- With no command in flight, only `rst` keeps the port from being ready (30_encoding.md R81, 70_reset_and_hazards.md
R201). -/
theorem State.cmdReady_of_rsp_none {s : State} (h : s.rsp = none) : s.cmdReady = !s.portIn.rst := by
  simp [State.cmdReady, h]

/-- Settles O11: the cells are read off `State.resetOf`, the flags and `STATUS` follow from the absent codec, the port
from the absent response. -/
theorem resetStateHoldsTheTabulatedValues : Obligations.ResetStateHoldsTheTabulatedValues := by
  intro rMax s
  have hcodec : s.codec = none := State.resetOf_codec rMax
  have hready (p : PortIn) (rest : List PortIn) : { s with inputs := p :: rest }.cmdReady = !p.rst := by
    have hrsp : { s with inputs := p :: rest }.rsp = none := State.resetOf_rsp rMax
    rw [State.cmdReady_of_rsp_none hrsp, State.portIn_with_inputs_cons]
  exact ⟨State.resetOf_v rMax, State.param?_of_codec_none hcodec, State.rvalid_of_codec_none hcodec,
    State.resetOf_lfsr rMax, State.statusWord_resetOf rMax, State.fvalid_of_codec_none hcodec,
    State.mvalid_of_codec_none hcodec, State.resetOf_err rMax, State.resetOf_cause rMax,
    State.peak?_of_codec_none hcodec, State.resetOf_flips rMax, State.resetOf_ecmd rMax, State.resetOf_earg rMax,
    State.transform?_of_codec_none hcodec, State.resetOf_rsp rMax, hready⟩

end Sys2Proof.Machine
end

section
/-! PROOF. The bit-vector unit (spec/40_bitvector.md): the pure functions bit by bit, what a command of each outcome does
to the state, and one theorem per command. -/

namespace Sys2Proof.Machine

/-! ### Words and complements, bit by bit -/

/-- Bit `j` of word `k` is bit `32k + j` of the value (20_memory.md R51). -/
theorem testBit_wordOfVec (x : Vec) (k j : Nat) :
    (wordOfVec x k).testBit j = (decide (j < 32) && x.val.testBit (32 * k + j)) := by
  rw [wordOfVec, Nat.testBit_mod_two_pow, Nat.testBit_div_two_pow, Nat.add_comm j]

/-- The `ARG` of R92 replaces the bits of word `k`; the words below come from the low part of the old value, the words
above from its high part. -/
theorem testBit_vecWithWord (x : Vec) (k : Nat) {data : Nat} (hdata : data < 2 ^ 32) {i : Nat} (hi : i < x.len) :
    (vecWithWord x k data).val.testBit i = if i / 32 = k then data.testBit (i % 32) else x.val.testBit i := by
  have hlo : x.val % 2 ^ (32 * k) < 2 ^ (32 * k) := Nat.mod_lt _ (by positivity)
  have hform : x.val % 2 ^ (32 * k) + data * 2 ^ (32 * k) + x.val / 2 ^ (32 * k + 32) * 2 ^ (32 * k + 32) =
      2 ^ (32 * k) * (2 ^ 32 * (x.val / 2 ^ (32 * k + 32)) + data) + x.val % 2 ^ (32 * k) := by ring
  simp only [vecWithWord, testBit_trunc, hi, decide_true, Bool.true_and]
  rw [hform, Nat.testBit_two_pow_mul_add _ hlo]
  split
  · next hbelow =>
    have hword : i / 32 ≠ k := by omega
    simp [hword, hbelow]
  · rw [Nat.testBit_two_pow_mul_add _ hdata]
    split
    · next hin =>
      have hword : i / 32 = k := by omega
      have hpos : i - 32 * k = i % 32 := by omega
      rw [if_pos hword, hpos]
    · next habove =>
      have hword : i / 32 ≠ k := by omega
      have hpos : i - 32 * k - 32 + (32 * k + 32) = i := by omega
      rw [if_neg hword, Nat.testBit_div_two_pow, hpos]

@[simp] theorem complementVec_len (x : Vec) : (complementVec x).len = x.len := rfl

theorem complementVec_lt (x : Vec) : (complementVec x).val < 2 ^ x.len := by
  have hpos : 0 < 2 ^ x.len := by positivity
  simp only [complementVec]
  omega

/-- The subtraction of R100 complements each bit, because the value fits its length. -/
theorem testBit_complementVec {x : Vec} (hx : x.val < 2 ^ x.len) (i : Nat) :
    (complementVec x).val.testBit i = (decide (i < x.len) && !x.val.testBit i) := by
  have hsub : 2 ^ x.len - 1 - x.val = 2 ^ x.len - (x.val + 1) := by omega
  rw [complementVec, hsub, Nat.testBit_two_pow_sub_succ hx]

/-- Setting a bit by `|||` (R97). -/
theorem testBit_setBit (val i j : Nat) : (val ||| 2 ^ i).testBit j = if j = i then true else val.testBit j := by
  rw [Nat.testBit_or, Nat.testBit_two_pow]
  split
  · next h => simp [h]
  · next h => simp [Ne.symm h]

/-- Inverting a bit by `^^^` (R99). -/
theorem testBit_flipBit (val i j : Nat) :
    (val ^^^ 2 ^ i).testBit j = if j = i then !val.testBit j else val.testBit j := by
  rw [Nat.testBit_xor, Nat.testBit_two_pow]
  split
  · next h => simp [h]
  · next h => simp [Ne.symm h]

/-- `testBit_clearBit` as a case split (R98). -/
theorem testBit_clearBit_ite (val i j : Nat) :
    (val - 2 ^ i * (val.testBit i).toNat).testBit j = if j = i then false else val.testBit j := by
  rw [testBit_clearBit]
  split
  · next h => simp [h]
  · next h => simp [h]

/-! ### The answers -/

/-- Bits of an extended natural number (00_scope.md R12). -/
theorem getLsbD_zext32 (v j : Nat) : (zext32 v).getLsbD j = (decide (j < 32) && v.testBit j) :=
  BitVec.getLsbD_ofNat 32 v j

theorem zext32_boolToNat (b : Bool) : zext32 b.toNat = if b = true then 1 else 0 := by
  cases b <;> rfl

/-- No register of the invariant is longer than 65536 bits (R22 with the largest `R_MAX` of 00_scope.md R8). -/
theorem State.Inv.len_le {s : State} (h : s.Inv) (n : VReg) : (s.v n).len ≤ 65536 := by
  obtain ⟨hlen, -⟩ := h.vectors n
  obtain ⟨-, hmax⟩ := h.legal
  calc (s.v n).len ≤ 2 ^ s.rMax := hlen
    _ ≤ 2 ^ 16 := Nat.pow_le_pow_right (by decide) hmax
    _ = 65536 := by decide

/-! ### From an outcome to the terms of the statements -/

section outcomes
variable {i : Instr} {s : State}

theorem hasFields_of_encode {op : BitVec 8} {vd va vb : BitVec 4} {imm : BitVec 12} {arg : Word}
    (h : encode i = beatOf op vd va vb imm arg) : HasFields i ⟨op, vd, va, vb, imm⟩ := by
  rw [HasFields, h, ofCmd_beatOf]

theorem raises_of_exec {e : Error} (h : exec i s = raise e (encode i) s) : Raises i e s := by
  rw [Raises, h, raise, takeError_eq_trapped]

/-- Writing one vector register and putting a response changes no other architectural state. -/
theorem onlyVectorWritten_setV (vd : VReg) (x : Vec) (r : Response) (s : State) :
    OnlyVectorWritten vd s ((s.setV vd x).putResponse r) := by
  refine ⟨fun n hn => ?_, by simp [SameCodec], by simp [SameNoise], by simp [SameRecord], by simp [SameHost]⟩
  rw [State.putResponse_v, State.v_setV_of_ne _ _ _ _ hn]

/-- What a command that ends with `OK` after writing `x` to `vd` does. -/
theorem writes_of_exec {vd : VReg} {x : Vec} (h : exec i s = respond 0 (s.setV vd x)) :
    ∃ t, exec i s = .next t ∧ Answers t 0 ∧ t.v vd = x ∧ OnlyVectorWritten vd s t := by
  refine ⟨(s.setV vd x).putResponse ⟨.ok, 0⟩, h, rfl, ?_, onlyVectorWritten_setV vd x _ s⟩
  rw [State.putResponse_v, State.v_setV_same]

/-- A command that rewrites bit `arg` by `new`, where `new` replaces that bit `b` by `f b` and keeps the others (R97 to
R99). -/
theorem rewriteBit_spec {vd : VReg} {arg : Word} {new : Nat → Nat → Nat} (f : Bool → Bool)
    (hexec : exec i s = rewriteBit i vd arg new s)
    (hnew : ∀ val k j, (new val k).testBit j = if j = k then f (val.testBit j) else val.testBit j) :
    ((s.v vd).len ≤ arg.toNat → Raises i .badIndex s) ∧
    (arg.toNat < (s.v vd).len → ∃ t, exec i s = .next t ∧ Answers t 0 ∧ (t.v vd).len = (s.v vd).len ∧
      (∀ j, (t.v vd).val.testBit j =
        if j = arg.toNat then f ((s.v vd).val.testBit j) else (s.v vd).val.testBit j) ∧
      OnlyVectorWritten vd s t) := by
  rcases rewriteBit_cases i vd arg new s with ⟨hge, h⟩ | ⟨hlt, h⟩
  · exact ⟨fun _ => raises_of_exec (hexec.trans h), fun hlt => absurd hge (Nat.not_le.mpr hlt)⟩
  · refine ⟨fun hge => absurd hge (Nat.not_le.mpr hlt), fun _ => ?_⟩
    obtain ⟨t, hnext, hans, hv, hframe⟩ := writes_of_exec (hexec.trans h)
    exact ⟨t, hnext, hans, by rw [hv], fun j => by rw [hv]; exact hnew _ _ j, hframe⟩

/-- A command that combines two registers of one length by `op`, where `op` acts on each bit as `f` (R101, R102). -/
theorem combineVecs_spec {vd va vb : VReg} {op : Nat → Nat → Nat} (f : Bool → Bool → Bool)
    (hexec : exec i s = combineVecs i vd va vb op s)
    (hop : ∀ a b j, (op a b).testBit j = f (a.testBit j) (b.testBit j)) :
    ((s.v va).len ≠ (s.v vb).len → Raises i .lenMismatch s) ∧
    ((s.v va).len = (s.v vb).len → ∃ t, exec i s = .next t ∧ Answers t 0 ∧ (t.v vd).len = (s.v va).len ∧
      (∀ j, (t.v vd).val.testBit j = f ((s.v va).val.testBit j) ((s.v vb).val.testBit j)) ∧
      OnlyVectorWritten vd s t) := by
  rcases combineVecs_cases i vd va vb op s with ⟨hne, h⟩ | ⟨heq, h⟩
  · exact ⟨fun _ => raises_of_exec (hexec.trans h), fun heq => absurd heq hne⟩
  · refine ⟨fun hne => absurd heq hne, fun _ => ?_⟩
    obtain ⟨t, hnext, hans, hv, hframe⟩ := writes_of_exec (hexec.trans h)
    exact ⟨t, hnext, hans, by rw [hv], fun j => by rw [hv]; exact hop _ _ j, hframe⟩

end outcomes

/-! ### The two outcomes of the commands that check a parameter or an index -/

section commands
variable {s : State} {vd va : VReg} {k : BitVec 12} {arg : Word}

theorem exec_vnew_raise (h : 2 ^ s.rMax < arg.toNat) :
    exec (.vnew vd arg) s = raise .invalidParameter (encode (.vnew vd arg)) s := if_pos h

theorem exec_vnew_ok (h : arg.toNat ≤ 2 ^ s.rMax) :
    exec (.vnew vd arg) s = respond 0 (s.setV vd ⟨arg.toNat, 0⟩) := if_neg (Nat.not_lt.mpr h)

theorem exec_vldw_raise (h : max 1 (2 ^ s.rMax / 32) ≤ k.toNat) :
    exec (.vldw vd k arg) s = raise .badIndex (encode (.vldw vd k arg)) s := if_pos h

theorem exec_vldw_ok (h : k.toNat < max 1 (2 ^ s.rMax / 32)) :
    exec (.vldw vd k arg) s = respond 0 (s.setV vd (vecWithWord (s.v vd) k.toNat arg.toNat)) :=
  if_neg (Nat.not_le.mpr h)

theorem exec_vrdw_raise (h : max 1 (2 ^ s.rMax / 32) ≤ k.toNat) :
    exec (.vrdw va k arg) s = raise .badIndex (encode (.vrdw va k arg)) s := if_pos h

theorem exec_vrdw_ok (h : k.toNat < max 1 (2 ^ s.rMax / 32)) :
    exec (.vrdw va k arg) s = respond (zext32 (wordOfVec (s.v va) k.toNat)) s := if_neg (Nat.not_le.mpr h)

theorem exec_vget_raise (h : (s.v va).len ≤ arg.toNat) :
    exec (.vget va arg) s = raise .badIndex (encode (.vget va arg)) s := if_pos h

theorem exec_vget_ok (h : arg.toNat < (s.v va).len) :
    exec (.vget va arg) s = respond (zext32 ((s.v va).val.testBit arg.toNat).toNat) s := if_neg (Nat.not_le.mpr h)

end commands

/-! ### The commands -/

/-- Settles O22. -/
theorem vnewCreatesTheZeroVector : Obligations.VnewCreatesTheZeroVector := fun _ _ _ =>
  ⟨hasFields_of_encode rfl, fun h => raises_of_exec (exec_vnew_raise h), fun h => writes_of_exec (exec_vnew_ok h)⟩

/-- Settles O23: the written register is `vecWithWord`, whose bits are those of `testBit_vecWithWord`. -/
theorem vldwWritesOneWord : Obligations.VldwWritesOneWord := by
  intro vd k arg s
  refine ⟨hasFields_of_encode rfl, fun h => raises_of_exec (exec_vldw_raise h), fun h => ?_⟩
  obtain ⟨t, hnext, hans, hv, hframe⟩ := writes_of_exec (exec_vldw_ok (vd := vd) (arg := arg) h)
  refine ⟨t, hnext, hans, ?_, ?_, fun i hi => ?_, hframe⟩ <;> rw [hv]
  · exact vecWithWord_len _ _ _
  · rw [vecWithWord_len]
    exact vecWithWord_lt _ _ _
  · exact testBit_vecWithWord _ _ arg.isLt hi

/-- Settles O24: the answer is `wordOfVec`, and a value below 2^len has no bit at or above `len`. -/
theorem vrdwReadsOneWord : Obligations.VrdwReadsOneWord := by
  intro va k arg s
  refine ⟨hasFields_of_encode rfl, fun h => raises_of_exec (exec_vrdw_raise h), fun h => ?_⟩
  have hbit (j : Nat) : (zext32 (wordOfVec (s.v va) k.toNat)).getLsbD j =
      (decide (j < 32) && (s.v va).val.testBit (32 * k.toNat + j)) := by
    rw [getLsbD_zext32, testBit_wordOfVec, ← Bool.and_assoc, Bool.and_self]
  refine ⟨_, exec_vrdw_ok h, fun j hj => ?_, fun hval j hj => ?_⟩
  · rw [hbit, decide_eq_true hj, Bool.true_and]
  · have hhigh : (s.v va).val < 2 ^ (32 * k.toNat + j) :=
      hval.trans_le (Nat.pow_le_pow_right (by decide) hj)
    rw [hbit, Nat.testBit_lt_two_pow hhigh, Bool.and_false]

/-- Settles O25. -/
theorem vlenReadsTheLength : Obligations.VlenReadsTheLength := by
  intro va arg s
  refine ⟨hasFields_of_encode rfl, zext32 (s.v va).len, rfl, rfl, fun hinv => ?_⟩
  have hlen := hinv.len_le va
  rw [zext32, BitVec.toNat_ofNat, Nat.mod_eq_of_lt (by omega)]

/-- Settles O26. -/
theorem vgetReadsOneBit : Obligations.VgetReadsOneBit := by
  intro va arg s
  refine ⟨hasFields_of_encode rfl, fun h => raises_of_exec (exec_vget_raise h), fun h => ?_⟩
  rw [exec_vget_ok h, zext32_boolToNat, respond, State.putResponse]

/-- Settles O27. -/
theorem vsetSetsOneBit : Obligations.VsetSetsOneBit := fun _ _ _ =>
  ⟨hasFields_of_encode rfl, rewriteBit_spec (fun _ => true) rfl testBit_setBit⟩

/-- Settles O28. -/
theorem vclrbClearsOneBit : Obligations.VclrbClearsOneBit := fun _ _ _ =>
  ⟨hasFields_of_encode rfl, rewriteBit_spec (fun _ => false) rfl testBit_clearBit_ite⟩

/-- Settles O29. -/
theorem vflipInvertsOneBit : Obligations.VflipInvertsOneBit := fun _ _ _ =>
  ⟨hasFields_of_encode rfl, rewriteBit_spec (fun b => !b) rfl testBit_flipBit⟩

/-- Settles O30: the written register is `complementVec`, whose bits are those of `testBit_complementVec` under R22. -/
theorem vnotComplementsEveryBit : Obligations.VnotComplementsEveryBit := by
  intro vd va arg s hval
  obtain ⟨t, hnext, hans, hv, hframe⟩ := writes_of_exec (i := .vnot vd va arg) (s := s) rfl
  refine ⟨hasFields_of_encode rfl, t, hnext, hans, ?_, ?_, fun i hi => ?_, hframe⟩ <;> rw [hv]
  · exact complementVec_len _
  · rw [complementVec_len]
    exact complementVec_lt _
  · simp [testBit_complementVec hval, hi]

/-- Settles O31. -/
theorem vandCombinesBitwise : Obligations.VandCombinesBitwise := fun _ _ _ _ _ =>
  ⟨hasFields_of_encode rfl, combineVecs_spec (fun a b => a && b) rfl Nat.testBit_and⟩

/-- Settles O32. -/
theorem vorCombinesBitwise : Obligations.VorCombinesBitwise := fun _ _ _ _ _ =>
  ⟨hasFields_of_encode rfl, combineVecs_spec (fun a b => a || b) rfl Nat.testBit_or⟩

end Sys2Proof.Machine
end

section
/-! PROOF. The codec (spec/41_codec.md): encoder and decoder bit by bit, that decoding inverts encoding, the halves of a
codeword, and `ENC` and `DEC`. -/

namespace Sys2Proof.Machine

/-! ### Parities with at most one term -/

theorem xorBelow_eq_false {n : Nat} {c : Nat → Bool} (h : ∀ k, k < n → c k = false) : xorBelow n c = false := by
  induction n with
  | zero => rfl
  | succ n ih => simp [xorBelow, ih fun k hk => h k (Nat.lt_succ_of_lt hk), h n (Nat.lt_succ_self n)]

theorem xorBelow_eq_single {n j : Nat} {c : Nat → Bool} (hj : j < n) (h : ∀ k, k < n → k ≠ j → c k = false) :
    xorBelow n c = c j := by
  induction n with
  | zero => exact absurd hj (Nat.not_lt_zero j)
  | succ n ih =>
    rcases Nat.lt_succ_iff_lt_or_eq.mp hj with hlt | rfl
    · have hlast : c n = false := h n (Nat.lt_succ_self n) (Nat.ne_of_gt hlt)
      rw [xorBelow, ih hlt fun k hk => h k (Nat.lt_succ_of_lt hk), hlast, Bool.xor_false]
    · have hbelow : xorBelow j c = false :=
        xorBelow_eq_false fun k hk => h k (Nat.lt_succ_of_lt hk) (Nat.ne_of_lt hk)
      rw [xorBelow, hbelow, Bool.false_xor]

/-! ### The encoder -/

/-- The machine's encoder meets the defining relation of R110. -/
theorem isCodewordOf_rmEncode (r m : Nat) : IsCodewordOf r m (rmEncode r m) := by
  refine ⟨rmEncode_lt r m, fun i hi => ?_⟩
  have htoNat_xor (a b : Bool) : (xor a b).toNat = (a.toNat + b.toNat) % 2 := by cases a <;> cases b <;> rfl
  have htoNat_and (a b : Bool) : (a && b).toNat = a.toNat * b.toNat := by cases a <;> cases b <;> rfl
  simp only [testBit_rmEncode, hi, decide_true, Bool.true_and, codewordBit, htoNat_xor, htoNat_and,
    xorBelow_toNat, Nat.add_mod_mod]

/-- Position 0 of a codeword is the constant term. -/
@[simp] theorem codewordBit_zero (r m : Nat) : codewordBit r m 0 = m.testBit r := by
  rw [codewordBit, xorBelow_eq_false fun k _ => by simp, Bool.xor_false]

/-- Position 2^j adds the linear term `w_j` alone to the constant term. -/
theorem codewordBit_two_pow {r j : Nat} (m : Nat) (hj : j < r) :
    codewordBit r m (2 ^ j) = xor (m.testBit r) (m.testBit j) := by
  rw [codewordBit, xorBelow_eq_single hj fun k _ hk => by simp [Ne.symm hk]]
  simp

/-! ### The decoder -/

/-- Bit `j` of the message a word decodes to (R118): the constant term is bit 0 of the word, a linear term is bit 2^j
without the constant term. -/
def decodedBit (r c j : Nat) : Bool :=
  if j = r then c.testBit 0 else xor (c.testBit (2 ^ j)) (c.testBit 0)

@[simp] theorem decodedBit_self (r c : Nat) : decodedBit r c r = c.testBit 0 := if_pos rfl

theorem decodedBit_of_lt {r j : Nat} (c : Nat) (hj : j < r) :
    decodedBit r c j = xor (c.testBit (2 ^ j)) (c.testBit 0) := if_neg (Nat.ne_of_lt hj)

/-- The conditional complement of R116 is an exclusive or with bit 0, at every position of the word. -/
theorem rmDecode_eq_ofBits (r c : Nat) : rmDecode r c = ofBits (r + 1) (decodedBit r c) := by
  rw [rmDecode, ofBits, decodedBit_self]
  congr 1
  refine ofBits_congr fun j hj => ?_
  have hpos : 2 ^ j < 2 ^ r := Nat.pow_lt_pow_right (by decide) hj
  rw [decodedBit_of_lt c hj]
  cases c.testBit 0 <;> simp [hpos]

/-- A decoded message fits its r+1 bits. -/
theorem rmDecode_lt (r c : Nat) : rmDecode r c < 2 ^ (r + 1) := by
  rw [rmDecode_eq_ofBits]
  exact ofBits_lt _ _

theorem testBit_rmDecode (r c j : Nat) : (rmDecode r c).testBit j = (decide (j < r + 1) && decodedBit r c j) := by
  rw [rmDecode_eq_ofBits, testBit_ofBits]

theorem testBit_wordOperand {r i : Nat} (x : Vec) (hi : i < 2 ^ r) :
    (wordOperand r x).testBit i = x.val.testBit i := by
  rw [wordOperand, testBit_trunc, decide_eq_true hi, Bool.true_and]

/-- Decoding looks at positions of the 2^r-bit word only. -/
theorem decodedBit_wordOperand {r j : Nat} (x : Vec) (hj : j ≤ r) :
    decodedBit r (wordOperand r x) j = decodedBit r x.val j := by
  have hzero := testBit_wordOperand x (Nat.two_pow_pos r)
  rcases Nat.lt_or_eq_of_le hj with hlt | rfl
  · rw [decodedBit_of_lt _ hlt, decodedBit_of_lt _ hlt, hzero,
      testBit_wordOperand x (Nat.pow_lt_pow_right (by decide) hlt)]
  · rw [decodedBit_self, decodedBit_self, hzero]

theorem decodedBit_rmEncode {r j : Nat} (m : Nat) (hj : j ≤ r) : decodedBit r (rmEncode r m) j = m.testBit j := by
  have hzero : (rmEncode r m).testBit 0 = m.testBit r := by
    rw [testBit_rmEncode, decide_eq_true (Nat.two_pow_pos r), Bool.true_and, codewordBit_zero]
  rcases Nat.lt_or_eq_of_le hj with hlt | rfl
  · have hpos : 2 ^ j < 2 ^ r := Nat.pow_lt_pow_right (by decide) hlt
    rw [decodedBit_of_lt _ hlt, hzero, testBit_rmEncode, decide_eq_true hpos, codewordBit_two_pow m hlt]
    cases m.testBit r <;> simp
  · rw [decodedBit_self, hzero]

/-- Decoding the codeword of any number gives its low r+1 bits (R119). -/
theorem rmDecode_rmEncode (r m : Nat) : rmDecode r (rmEncode r m) = m % 2 ^ (r + 1) := by
  refine Nat.eq_of_testBit_eq fun j => ?_
  rw [testBit_rmDecode, Nat.testBit_mod_two_pow]
  by_cases hj : j < r + 1
  · rw [decodedBit_rmEncode m (Nat.le_of_lt_succ hj)]
  · simp [hj]

/-! ### The halves of a codeword -/

/-- The message of the half-size codeword of R121: the low linear terms of `m`, under its constant term. -/
def halfMessage (n m : Nat) : Nat := m % 2 ^ n + (m.testBit (n + 1)).toNat * 2 ^ n

theorem testBit_halfMessage_of_lt {n j : Nat} (m : Nat) (hj : j < n) :
    (halfMessage n m).testBit j = m.testBit j := by
  rw [halfMessage, Nat.add_comm, Nat.mul_comm, Nat.testBit_two_pow_mul_add _ (Nat.mod_lt _ (by positivity)), if_pos hj,
    Nat.testBit_mod_two_pow, decide_eq_true hj, Bool.true_and]

theorem testBit_halfMessage_self (n m : Nat) : (halfMessage n m).testBit n = m.testBit (n + 1) := by
  rw [halfMessage, Nat.add_comm, Nat.mul_comm, Nat.testBit_two_pow_mul_add _ (Nat.mod_lt _ (by positivity)),
    if_neg (Nat.lt_irrefl n), Nat.sub_self]
  cases m.testBit (n + 1) <;> rfl

/-- The last linear term is the only one the half-size codeword lacks. -/
theorem codewordBit_succ (n m i : Nat) :
    codewordBit (n + 1) m i = xor (codewordBit n (halfMessage n m) i) (i.testBit n && m.testBit n) := by
  have hlow : xorBelow n (fun j => i.testBit j && (halfMessage n m).testBit j) =
      xorBelow n fun j => i.testBit j && m.testBit j :=
    xorBelow_congr fun j hj => by rw [testBit_halfMessage_of_lt m hj]
  rw [codewordBit, codewordBit, hlow, testBit_halfMessage_self, xorBelow, Bool.xor_assoc]

/-- A codeword bit depends on the low `n` bits of its position. -/
theorem codewordBit_two_pow_add (n m i : Nat) : codewordBit n m (2 ^ n + i) = codewordBit n m i := by
  have hlow : xorBelow n (fun j => (2 ^ n + i).testBit j && m.testBit j) =
      xorBelow n fun j => i.testBit j && m.testBit j :=
    xorBelow_congr fun j hj => by rw [Nat.testBit_two_pow_add_gt hj]
  rw [codewordBit, codewordBit, hlow]

theorem codewordBit_succ_low {n i : Nat} (m : Nat) (hi : i < 2 ^ n) :
    codewordBit (n + 1) m i = codewordBit n (halfMessage n m) i := by
  rw [codewordBit_succ, Nat.testBit_lt_two_pow hi, Bool.false_and, Bool.xor_false]

theorem codewordBit_succ_high {n i : Nat} (m : Nat) (hi : i < 2 ^ n) :
    codewordBit (n + 1) m (2 ^ n + i) = xor (codewordBit n (halfMessage n m) i) (m.testBit n) := by
  rw [codewordBit_succ, codewordBit_two_pow_add, Nat.testBit_two_pow_add_eq, Nat.testBit_lt_two_pow hi,
    Bool.not_false, Bool.true_and]

theorem rmEncode_succ_low (n m : Nat) : rmEncode (n + 1) m % 2 ^ 2 ^ n = rmEncode n (halfMessage n m) := by
  refine Nat.eq_of_testBit_eq fun i => ?_
  rw [Nat.testBit_mod_two_pow, testBit_rmEncode, testBit_rmEncode]
  by_cases hi : i < 2 ^ n
  · have hin : i < 2 ^ (n + 1) := by omega
    simp [hi, hin, codewordBit_succ_low m hi]
  · simp [hi]

theorem testBit_rmEncode_succ_high (n m i : Nat) :
    (rmEncode (n + 1) m / 2 ^ 2 ^ n).testBit i =
      (decide (i < 2 ^ n) && xor ((rmEncode n (halfMessage n m)).testBit i) (m.testBit n)) := by
  rw [Nat.testBit_div_two_pow, Nat.add_comm i, testBit_rmEncode, testBit_rmEncode]
  by_cases hi : i < 2 ^ n
  · have hin : 2 ^ n + i < 2 ^ (n + 1) := by omega
    simp [hi, hin, codewordBit_succ_high m hi]
  · have hout : ¬ 2 ^ n + i < 2 ^ (n + 1) := by omega
    simp [hi, hout]

theorem rmEncode_succ_high (n m : Nat) :
    rmEncode (n + 1) m / 2 ^ 2 ^ n =
      if m.testBit n then 2 ^ 2 ^ n - 1 - rmEncode n (halfMessage n m) else rmEncode n (halfMessage n m) := by
  refine Nat.eq_of_testBit_eq fun i => ?_
  rw [testBit_rmEncode_succ_high]
  split
  · next hbit =>
    have hcompl := testBit_complementVec (x := ⟨2 ^ n, rmEncode n (halfMessage n m)⟩) (rmEncode_lt n _) i
    rw [complementVec] at hcompl
    rw [hcompl, hbit, Bool.xor_true]
  · next hbit =>
    rw [eq_false_of_ne_true hbit, Bool.xor_false, testBit_rmEncode, ← Bool.and_assoc, Bool.and_self]

/-- Settles O39: bit `r` of the message is the constant term of both halves, bit `r-1` tells the high half apart. -/
theorem codewordSplitsIntoHalves : Obligations.CodewordSplitsIntoHalves := by
  intro r m hr
  obtain ⟨n, rfl⟩ := Nat.exists_eq_add_of_le' hr
  exact ⟨rmEncode_succ_low n m, rmEncode_succ_high n m⟩

/-! ### The commands -/

theorem toNat_zext32 {v : Nat} (h : v < 2 ^ 32) : (zext32 v).toNat = v := by
  rw [zext32, BitVec.toNat_ofNat, Nat.mod_eq_of_lt h]

theorem State.param?_of_rvalid_false {s : State} (h : s.rvalid = false) : s.param? = none :=
  Option.isNone_iff_eq_none.mp (Option.isSome_eq_false_iff.mp h)

section commands
variable {s : State} {vd va : VReg} {arg : Word} {r : Nat}

theorem exec_enc_raise (h : s.rvalid = false) :
    exec (.enc vd arg) s = raise .notConfigured (encode (.enc vd arg)) s := by
  simp only [exec, execEnc, State.param?_of_rvalid_false h]

theorem exec_enc_ok (h : s.param? = some r) :
    exec (.enc vd arg) s = respond 0 (s.setV vd ⟨2 ^ r, rmEncode r (messageOperand r arg.toNat)⟩) := by
  simp only [exec, execEnc, h]

theorem exec_dec_raise (h : s.rvalid = false) :
    exec (.dec va arg) s = raise .notConfigured (encode (.dec va arg)) s := by
  simp only [exec, execDec, State.param?_of_rvalid_false h]

theorem exec_dec_ok (h : s.param? = some r) :
    exec (.dec va arg) s = respond (zext32 (rmDecode r (wordOperand r (s.v va)))) s := by
  simp only [exec, execDec, h]

end commands

/-- Settles O33. -/
theorem encWritesTheCodeword : Obligations.EncWritesTheCodeword := by
  intro vd arg s
  refine ⟨hasFields_of_encode rfl, fun h => raises_of_exec (exec_enc_raise h), fun r hr => ?_⟩
  obtain ⟨t, hnext, hans, hv, hframe⟩ := writes_of_exec (exec_enc_ok (vd := vd) (arg := arg) hr)
  refine ⟨t, hnext, hans, ?_, ?_, hframe⟩ <;> rw [hv]
  exact isCodewordOf_rmEncode r _

/-- Settles O34: the message is below 2^17, so the answer holds it whole, and its bits are `decodedBit`. -/
theorem decAnswersTheMessage : Obligations.DecAnswersTheMessage := by
  intro va arg s
  refine ⟨hasFields_of_encode rfl, fun h => raises_of_exec (exec_dec_raise h), fun r hr => ?_⟩
  refine ⟨_, exec_dec_ok hr, fun hle => ?_⟩
  have hlt := rmDecode_lt r (wordOperand r (s.v va))
  have hfits : 2 ^ (r + 1) ≤ 2 ^ 32 := Nat.pow_le_pow_right (by decide) (by omega)
  have hnat := toNat_zext32 (hlt.trans_le hfits)
  have hbit {j : Nat} (hj : j ≤ r) :
      (zext32 (rmDecode r (wordOperand r (s.v va)))).getLsbD j = decodedBit r (s.v va).val j := by
    have hword : j < 32 := by omega
    rw [getLsbD_zext32, testBit_rmDecode, decodedBit_wordOperand _ hj, decide_eq_true hword,
      decide_eq_true (Nat.lt_succ_of_le hj), Bool.true_and, Bool.true_and]
  refine ⟨hnat, hnat.trans_lt hlt, ?_, fun j hj => ?_⟩
  · rw [hbit (Nat.le_refl r), decodedBit_self]
  · rw [hbit (Nat.le_of_lt hj), decodedBit_of_lt _ hj]

/-- Settles O38: `DEC` reads back the codeword `ENC` wrote, whole, because it fits its 2^r bits. -/
theorem decodeInvertsEncode : Obligations.DecodeInvertsEncode := by
  refine ⟨fun r m hm => (rmDecode_rmEncode r m).trans (Nat.mod_eq_of_lt hm), fun vd m a s r hr _ => ?_⟩
  obtain ⟨t, hnext, -, hv, -, hcodec, -⟩ := writes_of_exec (exec_enc_ok (vd := vd) (arg := m) hr)
  have hparam : t.param? = some r := by rw [State.param?, hcodec, ← hr, State.param?]
  have hdec : rmDecode r (wordOperand r (t.v vd)) = m.toNat % 2 ^ (r + 1) := by
    rw [hv, wordOperand, trunc, Nat.mod_eq_of_lt (rmEncode_lt r _), rmDecode_rmEncode, messageOperand, trunc,
      Nat.mod_mod]
  refine ⟨t, _, hnext, exec_dec_ok hparam, ?_⟩
  rw [hdec]
  rfl

end Sys2Proof.Machine
end

section
/-! PROOF. The noise channel (spec/42_noise.md): the LFSR never reaches zero, what a vector's passage leaves in the word
and in the count of flips, and `ALTER`. -/

namespace Sys2Proof.Machine

/-! ### The LFSR -/

theorem lfsrStep_of_even {w : Word} (h : w.getLsbD 0 = false) : lfsrStep w = w >>> 1 :=
  if_neg (Bool.eq_false_iff.mp h)

theorem lfsrStep_of_odd {w : Word} (h : w.getLsbD 0 = true) : lfsrStep w = w >>> 1 ^^^ lfsrMask :=
  if_pos h

/-- A step loses nothing: an even word only shifts out its 0, an odd word gets bit 31 of the mask (R132). -/
theorem lfsrStep_ne_zero {w : Word} (hw : w ≠ 0) : lfsrStep w ≠ 0 := by
  intro hstep
  cases hbit : w.getLsbD 0 with
  | false =>
    rw [lfsrStep_of_even hbit] at hstep
    refine hw (BitVec.eq_of_getLsbD_eq fun i _ => ?_)
    cases i with
    | zero => simpa using hbit
    | succ i => simpa [Nat.add_comm] using congrArg (·.getLsbD i) hstep
  | true =>
    rw [lfsrStep_of_odd hbit] at hstep
    have htop : (w >>> 1 ^^^ lfsrMask).getLsbD 31 = true := by simp [lfsrMask]
    rw [hstep] at htop
    exact absurd htop (by decide)

/-- No number of steps takes a non-zero LFSR to zero (10_state.md R39 (d)). -/
theorem lfsrStep_iterate_ne_zero {w : Word} (hw : w ≠ 0) (n : Nat) : lfsrStep^[n] w ≠ 0 :=
  Function.Iterate.rec (· ≠ 0) hw (fun _ => lfsrStep_ne_zero) n

/-! ### The passage of a vector -/

/-- A position inverts at most its own bit (R131). -/
theorem testBit_channelBit_out (threshold k : Nat) (c : Channel) (i : Nat) :
    (channelBit threshold k c).out.testBit i =
      xor (c.out.testBit i) (decide (i = k ∧ sampleOf (lfsrDraw c.lfsr) < threshold)) := by
  rw [channelBit_out]
  split
  · next hlt =>
    rw [testBit_flipBit]
    by_cases hi : i = k <;> simp [hi, hlt]
  · next hge => simp [hge]

/-- Position `i` is inverted by its own draw and by no other (R131). -/
theorem testBit_channel_out (threshold len : Nat) (c : Channel) (i : Nat) :
    (channel threshold len c).out.testBit i =
      xor (c.out.testBit i) (decide (i < len ∧ noiseSample c.lfsr i < threshold)) := by
  induction len with
  | zero => simp [channel]
  | succ len ih =>
    rw [channel, testBit_channelBit_out, sampleOf_channel, ih]
    by_cases hi : i = len
    · simp [hi]
    · have hlt : i < len + 1 ↔ i < len := by omega
      simp [hi, hlt]

/-- The positions whose sample is below the threshold are counted (R131). -/
theorem channel_flips (threshold len : Nat) (c : Channel) :
    (channel threshold len c).flips =
      c.flips + (List.range len).countP fun i => decide (noiseSample c.lfsr i < threshold) := by
  induction len with
  | zero => rfl
  | succ len ih =>
    rw [channel, channelBit_flips, sampleOf_channel, ih, List.range_succ, List.countP_append, Nat.add_assoc]
    simp [List.countP_cons]

/-! ### The command -/

/-- The state `ALTER` leaves, but for the answer: the channel's three registers, written back (R131). -/
def State.alter (vd va : VReg) (threshold : Nat) (s : State) : State :=
  let c := channel threshold (s.v va).len ⟨s.lfsr, (s.v va).val, 0⟩
  { s.setV vd ⟨(s.v va).len, c.out⟩ with lfsr := c.lfsr, flips := zext32 c.flips }

section alter
variable {s : State} {vd va : VReg} {arg : Word}

theorem exec_alter_raise (h : 65536 < arg.toNat) :
    exec (.alter vd va arg) s = raise .invalidParameter (encode (.alter vd va arg)) s := if_pos h

theorem exec_alter_ok (h : arg.toNat ≤ 65536) :
    exec (.alter vd va arg) s = respond 0 (s.alter vd va arg.toNat) := if_neg (Nat.not_lt.mpr h)

end alter

section alterFields
variable (s : State) (vd va : VReg) (threshold : Nat)

theorem State.alter_v_same : (s.alter vd va threshold).v vd =
    ⟨(s.v va).len, (channel threshold (s.v va).len ⟨s.lfsr, (s.v va).val, 0⟩).out⟩ := by
  rw [State.alter, State.v_with_lfsr_flips, State.v_setV_same]

theorem State.alter_lfsr : (s.alter vd va threshold).lfsr = lfsrStep^[16 * (s.v va).len] s.lfsr :=
  channel_lfsr _ _ _

theorem State.alter_flips : (s.alter vd va threshold).flips =
    BitVec.ofNat 32 ((List.range (s.v va).len).countP fun i => decide (noiseSample s.lfsr i < threshold)) := by
  rw [State.alter, channel_flips, Nat.zero_add, zext32]

theorem State.alter_sameVectorsExcept : SameVectorsExcept vd s (s.alter vd va threshold) := fun n hn => by
  rw [State.alter, State.v_with_lfsr_flips, State.v_setV_of_ne _ _ _ _ hn]

theorem State.alter_sameCodec : SameCodec s (s.alter vd va threshold) := by simp [SameCodec, State.alter]

theorem State.alter_sameRecord : SameRecord s (s.alter vd va threshold) := by simp [SameRecord, State.alter]

theorem State.alter_sameHost : SameHost s (s.alter vd va threshold) := by simp [SameHost, State.alter]

end alterFields

/-- Settles O40: the result is the channel's word, `testBit_channel_out`, and its count, `channel_flips`; the answer
touches none of the registers. -/
theorem alterFlipsTheSampledBits : Obligations.AlterFlipsTheSampledBits := by
  intro vd va arg s
  refine ⟨hasFields_of_encode rfl, fun h => raises_of_exec (exec_alter_raise h), fun h => ?_⟩
  have hv : ((s.alter vd va arg.toNat).putResponse ⟨.ok, 0⟩).v vd = _ :=
    (State.putResponse_v _ _ vd).trans (s.alter_v_same vd va arg.toNat)
  have hlfsr := s.alter_lfsr vd va arg.toNat
  refine ⟨_, exec_alter_ok h, rfl, ?_, fun i => ?_, hlfsr, fun hne => ?_, s.alter_flips vd va arg.toNat,
    fun n hn => ?_, s.alter_sameCodec vd va _, s.alter_sameRecord vd va _, s.alter_sameHost vd va _⟩
  · rw [hv]
  · rw [hv]
    exact testBit_channel_out _ _ _ i
  · exact hlfsr.trans_ne (lfsrStep_iterate_ne_zero hne _)
  · exact (State.putResponse_v _ _ n).trans (s.alter_sameVectorsExcept vd va _ n hn)

end Sys2Proof.Machine
end

section
/-! PROOF. The Hadamard engine's four commands (spec/43_hadamard.md section 2): what the codec cell says of the flags, what
the 32-bit result registers hold of a peak search, and one theorem per command. -/

namespace Sys2Proof.Machine

/-! ### The codec cell and the flags (10_state.md R32, R38) -/

section codecCell
variable {s : State} {r : Nat} {f : Transform}

theorem State.codec_eq_some (hr : s.param? = some r) (hf : s.transform? = some f) : s.codec = some ⟨r, some f⟩ := by
  obtain ⟨c, hc, rfl⟩ := Option.map_eq_some_iff.mp hr
  rw [State.transform?, hc] at hf
  rw [hc, ← show c.transform = some f from hf]

theorem State.param?_of_codec_some {t : Option Transform} (h : s.codec = some ⟨r, t⟩) : s.param? = some r := by
  rw [State.param?, h, Option.map_some]

theorem State.rvalid_of_codec_some {t : Option Transform} (h : s.codec = some ⟨r, t⟩) : s.rvalid = true := by
  rw [State.rvalid, State.param?_of_codec_some h, Option.isSome_some]

theorem State.transform?_of_codec_some (h : s.codec = some ⟨r, some f⟩) : s.transform? = some f := by
  rw [State.transform?, h, Option.bind_some]

theorem State.fvalid_of_codec_some (h : s.codec = some ⟨r, some f⟩) : s.fvalid = true := by
  rw [State.fvalid, State.transform?_of_codec_some h, Option.isSome_some]

theorem State.peak?_of_codec_some (h : s.codec = some ⟨r, some f⟩) : s.peak? = f.peak := by
  rw [State.peak?, State.transform?_of_codec_some h, Option.bind_some]

theorem State.mvalid_of_codec_some (h : s.codec = some ⟨r, some f⟩) : s.mvalid = f.peak.isSome := by
  rw [State.mvalid, State.peak?_of_codec_some h]

/-- `FVALID` is 0 for one of two reasons: there is no codec, or it holds no transform. -/
theorem State.codec_of_fvalid_false (h : s.fvalid = false) : s.codec = none ∨ ∃ r, s.codec = some ⟨r, none⟩ := by
  cases hc : s.codec with
  | none => exact .inl rfl
  | some c =>
    obtain ⟨r, t⟩ := c
    cases t with
    | none => exact .inr ⟨r, rfl⟩
    | some f =>
      rw [State.fvalid_of_codec_some hc] at h
      cases h

end codecCell

/-! ### The result of a peak search (R145 to R148) -/

section peakSearch
variable {r : Nat} {F : List Int}

theorem ne_nil_of_length_two_pow (hF : F.length = 2 ^ r) : F ≠ [] :=
  List.ne_nil_of_length_pos (hF ▸ Nat.two_pow_pos r)

/-- `natAbs_le_maxMagnitude` by index, an absent entry being 0. -/
theorem natAbs_getD_le_maxMagnitude (F : List Int) (k : Nat) : (F.getD k 0).natAbs ≤ maxMagnitude F := by
  rcases Nat.lt_or_ge k F.length with hk | hk
  · rw [List.getD_eq_getElem _ _ hk]
    exact natAbs_le_maxMagnitude (List.getElem_mem hk)
  · rw [List.getD_eq_default _ _ hk]
    exact Nat.zero_le _

theorem peakMessage_lt (hF : F.length = 2 ^ r) : peakMessage r F < 2 ^ (r + 1) := by
  have hpos : peakIndex F < 2 ^ r := hF ▸ peakIndex_lt (ne_nil_of_length_two_pow hF)
  rw [peakMessage, Nat.pow_succ]
  split <;> omega

/-- A legal order leaves room: messages and distances fit the 32-bit result registers (R33). -/
theorem two_pow_succ_le_of_legal (hr : r ≤ 16) : 2 ^ (r + 1) ≤ 2 ^ 32 :=
  Nat.pow_le_pow_right (by decide) (by omega)

theorem toNat_peakOf_pos (hr : r ≤ 16) (hF : F.length = 2 ^ r) : (peakOf r F).pos.toNat = peakIndex F := by
  have hpos : peakIndex F < 2 ^ r := hF ▸ peakIndex_lt (ne_nil_of_length_two_pow hF)
  have hfits := two_pow_succ_le_of_legal hr
  exact toNat_zext32 (by omega)

theorem toNat_peakOf_dist (hr : r ≤ 16) : (peakOf r F).dist.toNat = peakDistance r F := by
  have hle : peakDistance r F ≤ 2 ^ r := (Nat.div_le_self _ _).trans (Nat.sub_le _ _)
  have hpos := Nat.two_pow_pos r
  have hfits := two_pow_succ_le_of_legal hr
  exact toNat_zext32 (by omega)

theorem toNat_peakOf_msg (hr : r ≤ 16) (hF : F.length = 2 ^ r) : (peakOf r F).msg.toNat = peakMessage r F :=
  toNat_zext32 ((peakMessage_lt hF).trans_le (two_pow_succ_le_of_legal hr))

/-- `ENC` takes the message of a search whole: it fits the r+1 bits of the operand (R114). -/
theorem messageOperand_peakOf_msg (hr : r ≤ 16) (hF : F.length = 2 ^ r) :
    messageOperand r (peakOf r F).msg.toNat = peakMessage r F := by
  rw [toNat_peakOf_msg hr hF]
  exact Nat.mod_eq_of_lt (peakMessage_lt hF)

/-- What a search writes satisfies the invariant of the result registers (10_state.md R39 (g)). -/
theorem peakOf_isPeakOf (hr : r ≤ 16) (hF : F.length = 2 ^ r) : (peakOf r F).Of r F := by
  rw [Peak.Of, toNat_peakOf_pos hr hF, toNat_peakOf_dist hr, toNat_peakOf_msg hr hF]
  exact ⟨hF ▸ peakIndex_lt (ne_nil_of_length_two_pow hF), rfl, rfl, rfl⟩

end peakSearch

/-! ### The commands -/

/-- The state `UNALTER` leaves, but for the answer: the peak search over `F`, and the codeword of its message (R149). -/
def State.unalter (vd : VReg) (r : Nat) (F : List Int) (s : State) : State :=
  (s.loadPeak r F (peakOf r F)).setV vd ⟨2 ^ r, rmEncode r (peakMessage r F)⟩

section unalter
variable (s : State) (vd : VReg) (r : Nat) (F : List Int)

theorem State.unalter_codec : (s.unalter vd r F).codec = some ⟨r, some ⟨F, some (peakOf r F)⟩⟩ := by
  rw [State.unalter, State.setV_codec, State.loadPeak_codec]

/-- The answers of the first two commands of R149 leave no trace under the third's. -/
theorem State.unalter_eq_composition (a b c : Response) :
    (((((s.loadTransform r F).putResponse a).loadPeak r F (peakOf r F)).putResponse b).setV vd
      ⟨2 ^ r, rmEncode r (peakMessage r F)⟩).putResponse c = (s.unalter vd r F).putResponse c := by
  cases vd <;> rfl

end unalter

section commands
variable {s : State} {vd va : VReg} {arg : Word} {r : Nat} {f : Transform}

theorem exec_fht_raise (h : s.rvalid = false) :
    exec (.fht va arg) s = raise .notConfigured (encode (.fht va arg)) s := by
  simp only [exec, execFht, State.param?_of_rvalid_false h]

theorem exec_fht_ok (h : s.param? = some r) :
    exec (.fht va arg) s = respond 0 (s.loadTransform r (wht r (wordOperand r (s.v va)))) := by
  simp only [exec, execFht, h]

theorem exec_frd_noResult (h : s.fvalid = false) :
    exec (.frd arg) s = raise .noResult (encode (.frd arg)) s := by
  rcases State.codec_of_fvalid_false h with hc | ⟨r, hc⟩ <;> simp only [exec, execFrd, hc]

theorem exec_frd_badIndex (hc : s.codec = some ⟨r, some f⟩) (hk : 2 ^ r ≤ arg.toNat) :
    exec (.frd arg) s = raise .badIndex (encode (.frd arg)) s := by
  simp only [exec, execFrd, hc, if_pos hk]

theorem exec_frd_ok (hc : s.codec = some ⟨r, some f⟩) (hk : arg.toNat < 2 ^ r) :
    exec (.frd arg) s = respond (sext32 (f.coeffs.getD arg.toNat 0)) s := by
  simp only [exec, execFrd, hc, if_neg (Nat.not_le.mpr hk)]

theorem exec_fmax_raise (h : s.fvalid = false) :
    exec (.fmax arg) s = raise .noResult (encode (.fmax arg)) s := by
  rcases State.codec_of_fvalid_false h with hc | ⟨r, hc⟩ <;> simp only [exec, execFmax, hc]

theorem exec_fmax_ok (hc : s.codec = some ⟨r, some f⟩) :
    exec (.fmax arg) s = respond (peakOf r f.coeffs).msg (s.loadPeak r f.coeffs (peakOf r f.coeffs)) := by
  simp only [exec, execFmax, hc, peakOf]

theorem exec_unalter_raise (h : s.rvalid = false) :
    exec (.unalter vd va arg) s = raise .notConfigured (encode (.unalter vd va arg)) s := by
  simp only [exec, execUnalter, State.param?_of_rvalid_false h]

theorem exec_unalter_ok (h : s.param? = some r) :
    exec (.unalter vd va arg) s = respond 0 (s.unalter vd r (wht r (wordOperand r (s.v va)))) := by
  simp only [exec, execUnalter, h, State.unalter]

end commands

/-- Settles O44. -/
theorem fhtLoadsTheTransform : Obligations.FhtLoadsTheTransform := by
  intro va arg s
  refine ⟨hasFields_of_encode rfl, fun h => raises_of_exec (exec_fht_raise h), fun r hr => ?_⟩
  have hcodec := State.loadTransform_codec r (wht r (wordOperand r (s.v va))) s
  exact ⟨_, exec_fht_ok hr, rfl, State.rvalid_of_codec_some hcodec, State.fvalid_of_codec_some hcodec,
    State.mvalid_of_codec_some hcodec⟩

/-- Settles O45. -/
theorem frdReadsOneCoefficient : Obligations.FrdReadsOneCoefficient := by
  intro arg s
  refine ⟨hasFields_of_encode rfl, fun h => raises_of_exec (exec_frd_noResult h), fun r f hr hf => ?_⟩
  have hcodec := State.codec_eq_some hr hf
  exact ⟨fun hk => raises_of_exec (exec_frd_badIndex hcodec hk), exec_frd_ok hcodec⟩

/-- Settles O46: the registers are `peakOf_isPeakOf`; the peak has the greatest magnitude, `natAbs_peakValue`, and no
earlier entry has it, `natAbs_lt_before_peak`. -/
theorem fmaxFindsThePeak : Obligations.FmaxFindsThePeak := by
  intro arg s
  refine ⟨hasFields_of_encode rfl, fun h => raises_of_exec (exec_fmax_raise h), fun r f hr hf hle hlen => ?_⟩
  have hne := ne_nil_of_length_two_pow hlen
  have hpos := toNat_peakOf_pos hle hlen
  have hmax : (f.coeffs.getD (peakOf r f.coeffs).pos.toNat 0).natAbs = maxMagnitude f.coeffs := by
    rw [hpos]
    exact natAbs_peakValue hne
  obtain ⟨hlt, hpeak, hmsg, hdist⟩ := peakOf_isPeakOf hle hlen
  refine ⟨peakOf r f.coeffs, exec_fmax_ok (State.codec_eq_some hr hf), hlt, fun k _ => ?_, fun k hk => ?_, hpeak, hdist,
    hmsg⟩
  · rw [hmax]
    exact natAbs_getD_le_maxMagnitude _ k
  · rw [hmax]
    exact natAbs_lt_before_peak (hpos ▸ hk) hne

/-- Settles O47: `ENC` takes the message whole from `FMAX`'s answer, `messageOperand_peakOf_msg`, and the effects of the
three commands compose to that of the one, `State.unalter_eq_composition`. -/
theorem unalterIsFhtFmaxEnc : Obligations.UnalterIsFhtFmaxEnc := by
  intro vd va arg s
  refine ⟨hasFields_of_encode rfl, fun h => raises_of_exec (exec_unalter_raise h), fun r hr hle => ?_⟩
  have hcodec := s.unalter_codec vd r (wht r (wordOperand r (s.v va)))
  refine ⟨_, _, _, _, exec_fht_ok hr, exec_fmax_ok rfl, rfl, ?_, exec_unalter_ok hr, rfl,
    State.rvalid_of_codec_some hcodec, State.fvalid_of_codec_some hcodec, State.mvalid_of_codec_some hcodec⟩
  rw [exec_enc_ok (State.param?_of_codec_some rfl), messageOperand_peakOf_msg hle (length_wht r _), respond,
    State.unalter_eq_composition]

end Sys2Proof.Machine
end

section
/-! PROOF. The system commands (spec/44_system.md): which words of the opcodes 0 to 2 the decoder rejects, when a control
register's read or write raises, and one theorem per command. -/

namespace Sys2Proof

/-! ### The words of the three opcodes (30_encoding.md R72, R75 (b)) -/

section words
variable {cmd arg : Word} {f : Fields}

theorem decode_of_op_nop (h : (Fields.ofCmd cmd).op = 0x00#8) :
    decode ⟨cmd, arg⟩ = formatZ (Fields.ofCmd cmd) (.nop arg) := by
  simp only [decode, h]

theorem decode_of_op_csrr (h : (Fields.ofCmd cmd).op = 0x01#8) :
    decode ⟨cmd, arg⟩ = formatC (Fields.ofCmd cmd) fun n => .csrr n arg := by
  simp only [decode, h]

theorem decode_of_op_csrw (h : (Fields.ofCmd cmd).op = 0x02#8) :
    decode ⟨cmd, arg⟩ = formatC (Fields.ofCmd cmd) fun n => .csrw n arg := by
  simp only [decode, h]

theorem formatZ_error {i : Instr} (h : f ≠ ⟨f.op, 0, 0, 0, 0⟩) : formatZ f i = .error .unusedFieldNotZero := by
  obtain ⟨op, vd, va, vb, imm⟩ := f
  refine if_neg fun hzero => h ?_
  simp only [Bool.and_eq_true, beq_iff_eq] at hzero
  obtain ⟨⟨⟨rfl, rfl⟩, rfl⟩, rfl⟩ := hzero
  rfl

theorem formatC_error {build : BitVec 12 → Instr} (h : f.vd ≠ 0 ∨ f.va ≠ 0 ∨ f.vb ≠ 0) :
    formatC f build = .error .unusedFieldNotZero := by
  refine if_neg fun hzero => ?_
  simp only [Bool.and_eq_true, beq_iff_eq] at hzero
  obtain ⟨⟨hvd, hva⟩, hvb⟩ := hzero
  rcases h with h | h | h
  · exact h hvd
  · exact h hva
  · exact h hvb

/-- `NOP`'s word is zero (R160). -/
theorem toCmd_zero : Fields.toCmd ⟨0, 0, 0, 0, 0⟩ = 0 := by decide

/-- A word of opcode 0 whose other fields are zero is the zero word. -/
theorem eq_zero_of_fields (hop : (Fields.ofCmd cmd).op = 0x00)
    (h : Fields.ofCmd cmd = ⟨(Fields.ofCmd cmd).op, 0, 0, 0, 0⟩) : cmd = 0 := by
  rw [← Fields.toCmd_ofCmd cmd, h, hop]
  exact toCmd_zero

end words

/-! ### The numbers of the control registers -/

/-- No two control registers have one number (10_state.md R28). -/
theorem Csr.eq_of_ofNumber {n : BitVec 12} {c c' : Csr} (h : Csr.ofNumber n = some c) (h' : n = c'.number) :
    c' = c := by
  rw [h', Csr.ofNumber_number] at h
  exact Option.some.inj h

theorem Csr.ofNumber_eq_none {n : BitVec 12} (h : 0x00B < n.toNat) : Csr.ofNumber n = none := by
  rw [← Option.not_isSome_iff_eq_none, Csr.ofNumber_isSome_iff]
  exact Nat.not_le.mpr h

end Sys2Proof

namespace Sys2Proof.Machine

theorem execBeat_of_decode_error {b : Beat} {s : State} {why : Reject} (h : decode b = .error why) :
    execBeat b s = .next (Trapped .illegalCommand b s) := by
  simp only [execBeat, h, raise, takeError_eq_trapped]

/-! ### The control registers (10_state.md R28) -/

section registers
variable {s : State} {c : Csr} {arg : Word}

theorem State.peak?_of_mvalid_false (h : s.mvalid = false) : s.peak? = none :=
  Option.isNone_iff_eq_none.mp (Option.isSome_eq_false_iff.mp h)

theorem readResult_error {sel : Peak → Word} (h : s.mvalid = false) : s.readResult sel = .error .noResult := by
  simp only [State.readResult, State.peak?_of_mvalid_false h]

theorem readResult_ok {sel : Peak → Word} {p : Peak} (h : s.peak? = some p) : s.readResult sel = .ok (sel p) := by
  simp only [State.readResult, h]

theorem readResult_eq_error {sel : Peak → Word} {e : Error} (h : s.readResult sel = .error e) : s.mvalid = false := by
  cases hp : s.peak? with
  | none => rw [State.mvalid, hp, Option.isSome_none]
  | some p =>
    rw [readResult_ok hp] at h
    cases h

theorem readCsr_r_error (h : s.rvalid = false) : s.readCsr .r = .error .notConfigured := by
  simp only [State.readCsr, State.param?_of_rvalid_false h]

theorem readCsr_r_ok {r : Nat} (h : s.param? = some r) : s.readCsr .r = .ok (zext32 r) := by
  simp only [State.readCsr, h]

theorem readCsr_r_eq_error {e : Error} (h : s.readCsr .r = .error e) : s.rvalid = false := by
  cases hp : s.param? with
  | none => rw [State.rvalid, hp, Option.isSome_none]
  | some r =>
    rw [readCsr_r_ok hp] at h
    cases h

/-- The only reads that raise: of `R` while `RVALID` is 0, of a result register while `MVALID` is 0 (R161). -/
theorem readCsr_eq_error {e : Error} (h : s.readCsr c = .error e) :
    (c = .r ∧ s.rvalid = false) ∨ ((c = .pos ∨ c = .peak ∨ c = .dist ∨ c = .msg) ∧ s.mvalid = false) := by
  cases c with
  | r => exact .inl ⟨rfl, readCsr_r_eq_error h⟩
  | pos | peak | dist | msg => exact .inr ⟨by simp, readResult_eq_error h⟩
  | id | cap | lfsr | status | flips | ecmd | earg => cases h

theorem Error.code_le (e : Error) : e.code ≤ 6 := by
  cases e <;> decide

theorem Status.code_le (st : Status) : st.code ≤ 6 := by
  cases st with
  | ok => exact Nat.zero_le 6
  | error e => exact e.code_le

/-- The flags and `CAUSE` do not overlap, and fit in the word (R28). -/
theorem toNat_statusWord (s : State) : s.statusWord.toNat =
    s.rvalid.toNat + 2 * s.fvalid.toNat + 4 * s.mvalid.toNat + 8 * s.err.toNat + 16 * s.cause.code := by
  have hr := s.rvalid.toNat_le
  have hf := s.fvalid.toNat_le
  have hm := s.mvalid.toNat_le
  have he := s.err.toNat_le
  have hc := s.cause.code_le
  exact toNat_zext32 (by omega)

/-- The value `CAP` holds: `NV` is 4 (R29). -/
theorem capValue_eq (s : State) : s.capValue = BitVec.ofNat 32 (0x400 + s.rMax) :=
  congrArg (BitVec.ofNat 32) (Nat.add_comm _ _)

theorem writeCsr_readOnly (hr : c ≠ .r) (hl : c ≠ .lfsr) (hs : c ≠ .status) :
    s.writeCsr c arg = .error .illegalCommand := by
  cases c with
  | r => exact absurd rfl hr
  | lfsr => exact absurd rfl hl
  | status => exact absurd rfl hs
  | id | cap | pos | peak | dist | msg | flips | ecmd | earg => rfl

end registers

/-! ### The outcomes of the commands -/

section commands
variable {s t : State} {n : BitVec 12} {c : Csr} {arg d : Word} {e : Error}

theorem exec_csrr_illegal (h : Csr.ofNumber n = none) :
    exec (.csrr n arg) s = raise .illegalCommand (encode (.csrr n arg)) s := by
  simp only [exec, execCsrr, h]

theorem exec_csrr_raise (hn : Csr.ofNumber n = some c) (h : s.readCsr c = .error e) :
    exec (.csrr n arg) s = raise e (encode (.csrr n arg)) s := by
  simp only [exec, execCsrr, hn, h]

theorem exec_csrr_ok (hn : Csr.ofNumber n = some c) (h : s.readCsr c = .ok d) :
    exec (.csrr n arg) s = respond d s := by
  simp only [exec, execCsrr, hn, h]

theorem exec_csrw_raise (hn : Csr.ofNumber n = some c) (h : s.writeCsr c arg = .error e) :
    exec (.csrw n arg) s = raise e (encode (.csrw n arg)) s := by
  simp only [exec, execCsrw, hn, h]

theorem exec_csrw_ok (hn : Csr.ofNumber n = some c) (h : s.writeCsr c arg = .ok t) :
    exec (.csrw n arg) s = respond 0 t := by
  simp only [exec, execCsrw, hn, h]

/-- A number that names no register and one that names a read-only register raise alike (R162). -/
theorem exec_csrw_illegal (hr : n ≠ Csr.number .r) (hl : n ≠ Csr.number .lfsr) (hs : n ≠ Csr.number .status) :
    exec (.csrw n arg) s = raise .illegalCommand (encode (.csrw n arg)) s := by
  cases hn : Csr.ofNumber n with
  | none => simp only [exec, execCsrw, hn]
  | some c =>
    have hc := Csr.number_of_ofNumber hn
    refine exec_csrw_raise hn (writeCsr_readOnly ?_ ?_ ?_) <;> rintro rfl
    · exact hr hc.symm
    · exact hl hc.symm
    · exact hs hc.symm

/-- A read that finds its register's value (R161): the command ends `OK`, and its answer `d` is the value of whichever
register has the number `n`. -/
theorem exec_csrr_reads (hn : n.toNat ≤ 0x00B) (hr : n = Csr.number .r → s.rvalid = true)
    (hm : n = Csr.number .pos ∨ n = Csr.number .peak ∨ n = Csr.number .dist ∨ n = Csr.number .msg → s.mvalid = true) :
    ∃ d, exec (.csrr n arg) s = respond d s ∧ ∀ c : Csr, n = c.number → s.readCsr c = .ok d := by
  obtain ⟨c, hc⟩ := Option.isSome_iff_exists.mp ((Csr.ofNumber_isSome_iff n).mpr hn)
  obtain rfl := Csr.number_of_ofNumber hc
  cases hread : s.readCsr c with
  | ok d => exact ⟨d, exec_csrr_ok hc hread, fun c' h => by rw [Csr.eq_of_ofNumber hc h, hread]⟩
  | error e =>
    rcases readCsr_eq_error hread with ⟨rfl, hinvalid⟩ | ⟨hresult, hinvalid⟩
    · exact nomatch (hr rfl).symm.trans hinvalid
    · have hvalid := hm (by rcases hresult with rfl | rfl | rfl | rfl <;> simp)
      exact nomatch hvalid.symm.trans hinvalid

end commands

/-! ### The commands -/

/-- Settles O20: the number names one register, `exec_csrr_reads`, and its value is that of `State.readCsr`. -/
theorem csrrReadsTheControlRegister : Obligations.CsrrReadsTheControlRegister := by
  intro n arg s
  refine ⟨hasFields_of_encode rfl,
    fun cmd hop hfields => execBeat_of_decode_error ((decode_of_op_csrr hop).trans (formatC_error hfields)),
    fun h => raises_of_exec (exec_csrr_illegal (Csr.ofNumber_eq_none h)), ?_, ?_, fun hn hr hm => ?_⟩
  · rintro rfl h
    exact raises_of_exec (exec_csrr_raise (c := .r) rfl (readCsr_r_error h))
  · rintro (rfl | rfl | rfl | rfl) h <;> exact raises_of_exec (exec_csrr_raise rfl (readResult_error h))
  · obtain ⟨d, hexec, hread⟩ := exec_csrr_reads (arg := arg) hn hr hm
    have hvalue {c : Csr} {v : Word} (hc : n = c.number) (hv : s.readCsr c = .ok v) : d = v :=
      Except.ok.inj ((hread c hc).symm.trans hv)
    refine ⟨d, hexec, ?id, ?cap, ?r, ?lfsr, ?status, ?pos, ?peak, ?dist, ?msg, ?flips, ?ecmd, ?earg⟩
    case id => exact fun h => hvalue (c := .id) h rfl
    case cap => exact fun h => (hvalue (c := .cap) h rfl).trans (capValue_eq s)
    case r => exact fun h r hr => hvalue (c := .r) h (readCsr_r_ok hr)
    case lfsr => exact fun h => hvalue (c := .lfsr) h rfl
    case status => exact fun h => hvalue (c := .status) h rfl ▸ toNat_statusWord s
    case pos => exact fun h p hp => hvalue (c := .pos) h (readResult_ok hp)
    case peak => exact fun h p hp => hvalue (c := .peak) h (readResult_ok hp)
    case dist => exact fun h p hp => hvalue (c := .dist) h (readResult_ok hp)
    case msg => exact fun h p hp => hvalue (c := .msg) h (readResult_ok hp)
    case flips => exact fun h => hvalue (c := .flips) h rfl
    case ecmd => exact fun h => hvalue (c := .ecmd) h rfl
    case earg => exact fun h => hvalue (c := .earg) h rfl

/-- Settles O21: each writable register's clause is its row of `State.writeCsr`; a configured codec without a transform
has `RVALID` alone set. -/
theorem csrwWritesTheControlRegister : Obligations.CsrwWritesTheControlRegister := by
  intro n arg s
  refine ⟨hasFields_of_encode rfl,
    fun cmd hop hfields => execBeat_of_decode_error ((decode_of_op_csrw hop).trans (formatC_error hfields)),
    fun hr hl hs => raises_of_exec (exec_csrw_illegal hr hl hs), ?_, ?_, ?_, ?_, ?_⟩
  · rintro rfl h
    exact raises_of_exec (exec_csrw_raise (c := .r) rfl (if_pos h))
  · rintro rfl h
    exact ⟨_, exec_csrw_ok (c := .r) rfl (if_neg (Nat.not_lt.mpr h)), rfl, rfl, rfl, rfl, rfl⟩
  · rintro rfl h
    exact raises_of_exec (exec_csrw_raise (c := .lfsr) rfl (if_pos h))
  · rintro rfl h
    exact exec_csrw_ok (c := .lfsr) rfl (if_neg h)
  · rintro rfl
    rw [exec_csrw_ok (c := .status) rfl rfl]
    split <;> rfl

/-- Settles O19: a word of opcode 0 with no other field set is zero, `eq_zero_of_fields`. -/
theorem nopDoesNothing : Obligations.NopDoesNothing := by
  intro arg s
  refine ⟨congrArg (Beat.mk · arg) toCmd_zero, rfl, fun cmd hop hne => ?_⟩
  have hfields : Fields.ofCmd cmd ≠ ⟨(Fields.ofCmd cmd).op, 0, 0, 0, 0⟩ := fun h => hne (eq_zero_of_fields hop h)
  exact execBeat_of_decode_error ((decode_of_op_nop hop).trans (formatZ_error hfields))

end Sys2Proof.Machine
end

section
/-! PROOF. `ILLEGAL_COMMAND` (spec/60_exceptions.md R172): the decoder read row by row against the formats of R72, the
command words `LegalCommand` allows, and the status a legal command ends with. -/

namespace Sys2Proof.Machine

/-! ### The formats (30_encoding.md R72, R75 (b), (c)) -/

/-- The fields of a command of the row's format with the given operands: those the format does not use are zero. -/
def FormatRow.fields (row : FormatRow) (vd va vb : VReg) (k : BitVec 12) : Fields where
  op := row.op
  vd := if row.usesVd then vd.toField else 0
  va := if row.usesVa then va.toField else 0
  vb := if row.usesVb then vb.toField else 0
  imm12 := if row.usesImm then k else 0

/-- The decoder's outcome `out` is that of the row's format for the fields `f`: the instruction `build` makes of the
operands in `f`, or an error when `f` holds no operands of that format. -/
def FormatRow.Reads (row : FormatRow) (f : Fields) (build : VReg → VReg → VReg → BitVec 12 → Instr)
    (out : Except Reject Instr) : Prop :=
  ∀ i, out = .ok i ↔ ∃ vd va vb k, f = row.fields vd va vb k ∧ build vd va vb k = i

section formats
variable {f : Fields} {op : BitVec 8}

theorem reads_formatDAB (hop : f.op = op) (build : VReg → VReg → VReg → Instr) :
    FormatRow.Reads ⟨op, true, true, true, false⟩ f (fun vd va vb _ => build vd va vb) (formatDAB f build) := by
  subst hop
  cases f
  simp [FormatRow.Reads, FormatRow.fields, formatDAB, requireZero_ok, withReg_ok, and_assoc, and_left_comm]

-- An operand the format does not use may be any register; that there is one is shown where these lemmas are used.
variable [Nonempty VReg]

theorem reads_formatZ (hop : f.op = op) (i : Instr) :
    FormatRow.Reads ⟨op, false, false, false, false⟩ f (fun _ _ _ _ => i) (formatZ f i) := by
  subst hop
  cases f
  simp [FormatRow.Reads, FormatRow.fields, formatZ, requireZero_ok, and_assoc]

theorem reads_formatC (hop : f.op = op) (build : BitVec 12 → Instr) :
    FormatRow.Reads ⟨op, false, false, false, true⟩ f (fun _ _ _ k => build k) (formatC f build) := by
  subst hop
  cases f
  simp [FormatRow.Reads, FormatRow.fields, formatC, requireZero_ok, and_assoc]

theorem reads_formatD (hop : f.op = op) (build : VReg → Instr) :
    FormatRow.Reads ⟨op, true, false, false, false⟩ f (fun vd _ _ _ => build vd) (formatD f build) := by
  subst hop
  cases f
  simp [FormatRow.Reads, FormatRow.fields, formatD, requireZero_ok, withReg_ok, and_assoc, and_left_comm]

theorem reads_formatDK (hop : f.op = op) (build : VReg → BitVec 12 → Instr) :
    FormatRow.Reads ⟨op, true, false, false, true⟩ f (fun vd _ _ k => build vd k) (formatDK f build) := by
  subst hop
  cases f
  simp [FormatRow.Reads, FormatRow.fields, formatDK, requireZero_ok, withReg_ok, and_assoc, and_left_comm]

theorem reads_formatA (hop : f.op = op) (build : VReg → Instr) :
    FormatRow.Reads ⟨op, false, true, false, false⟩ f (fun _ va _ _ => build va) (formatA f build) := by
  subst hop
  cases f
  simp [FormatRow.Reads, FormatRow.fields, formatA, requireZero_ok, withReg_ok, and_assoc, and_left_comm]

theorem reads_formatAK (hop : f.op = op) (build : VReg → BitVec 12 → Instr) :
    FormatRow.Reads ⟨op, false, true, false, true⟩ f (fun _ va _ k => build va k) (formatAK f build) := by
  subst hop
  cases f
  simp [FormatRow.Reads, FormatRow.fields, formatAK, requireZero_ok, withReg_ok, and_assoc, and_left_comm]

theorem reads_formatDA (hop : f.op = op) (build : VReg → VReg → Instr) :
    FormatRow.Reads ⟨op, true, true, false, false⟩ f (fun vd va _ _ => build vd va) (formatDA f build) := by
  subst hop
  cases f
  simp [FormatRow.Reads, FormatRow.fields, formatDA, requireZero_ok, withReg_ok, and_assoc, and_left_comm]

end formats

/-! ### The decoder (30_encoding.md R74, R77) -/

section decoder
variable {b : Beat} {i : Instr} {row : FormatRow}

/-- The decoder reads a word of a tabulated opcode by that row's format, and what it builds is encoded by the fields it
was read from. -/
theorem decode_reads (hrow : row ∈ formatTable) (hop : (Fields.ofCmd b.cmd).op = row.op) :
    ∃ build, row.Reads (Fields.ofCmd b.cmd) build (decode b) ∧
      ∀ vd va vb k, encode (build vd va vb k) = ⟨(row.fields vd va vb k).toCmd, b.arg⟩ := by
  have : Nonempty VReg := ⟨.V0⟩
  revert row
  simp only [formatTable, List.forall_mem_append, List.forall_mem_cons, List.not_mem_nil, false_implies,
    implies_true, and_true]
  refine ⟨⟨?nop, ?csrr, ?csrw, ?vnew, ?vldw, ?vrdw, ?vlen, ?vget, ?vset, ?vclrb, ?vflip⟩,
    ?vnot, ?vand, ?vor, ?enc, ?dec, ?alter, ?fht, ?frd, ?fmax, ?unalter⟩ <;> intro hop <;> simp only [decode, hop]
  case nop | frd | fmax => exact ⟨_, reads_formatZ hop _, fun _ _ _ _ => rfl⟩
  case csrr | csrw => exact ⟨_, reads_formatC hop _, fun _ _ _ _ => rfl⟩
  case vnew | vset | vclrb | vflip | enc => exact ⟨_, reads_formatD hop _, fun _ _ _ _ => rfl⟩
  case vldw => exact ⟨_, reads_formatDK hop _, fun _ _ _ _ => rfl⟩
  case vlen | vget | dec | fht => exact ⟨_, reads_formatA hop _, fun _ _ _ _ => rfl⟩
  case vrdw => exact ⟨_, reads_formatAK hop _, fun _ _ _ _ => rfl⟩
  case vnot | alter | unalter => exact ⟨_, reads_formatDA hop _, fun _ _ _ _ => rfl⟩
  case vand | vor => exact ⟨_, reads_formatDAB hop _, fun _ _ _ _ => rfl⟩

/-- A word that decodes has a tabulated opcode (R75 (a)). -/
theorem op_mem_of_decode (h : decode b = .ok i) : ∃ row ∈ formatTable, (Fields.ofCmd b.cmd).op = row.op := by
  suffices (Fields.ofCmd b.cmd).op ∈ formatTable.map (·.op) by
    obtain ⟨row, hrow, hop⟩ := List.mem_map.mp this
    exact ⟨row, hrow, hop.symm⟩
  unfold decode at h
  dsimp only at h
  split at h
  case h_22 => cases h
  all_goals
    next hop =>
      rw [hop]
      decide

/-- The encoder inverts the decoder: the fields a word was read from are the fields it is written with. -/
theorem encode_of_decode (h : decode b = .ok i) : encode i = b := by
  obtain ⟨row, hrow, hop⟩ := op_mem_of_decode h
  obtain ⟨build, hreads, hencode⟩ := decode_reads hrow hop
  obtain ⟨vd, va, vb, k, hfields, rfl⟩ := (hreads i).mp h
  rw [hencode, ← hfields, Fields.toCmd_ofCmd]

end decoder

/-! ### Legal command words (30_encoding.md R75) -/

/-- The conditions (d) and (e) of R75. -/
def NumberLegal (f : Fields) : Prop :=
  (f.op = 0x01 ∨ f.op = 0x02 → f.imm12.toNat ≤ 0x00B) ∧
    (f.op = 0x02 → f.imm12 = 0x002 ∨ f.imm12 = 0x003 ∨ f.imm12 = 0x004)

/-- A register field is legal when it is zero or, where it is used, the number of a register (R71). -/
theorem registerFieldLegal_iff (used : Bool) (field : BitVec 4) :
    RegisterFieldLegal used field ↔ ∃ n : VReg, field = if used then n.toField else 0 := by
  cases used with
  | false => exact ⟨fun h => ⟨.V0, h⟩, fun ⟨_, h⟩ => h⟩
  | true =>
    refine Iff.trans (VReg.ofField_isSome_iff field).symm (Option.isSome_iff_exists.trans ⟨?_, ?_⟩)
    · exact fun ⟨n, h⟩ => ⟨n, (VReg.toField_of_ofField h).symm⟩
    · exact fun ⟨n, h⟩ => ⟨n, h ▸ VReg.ofField_toField n⟩

theorem immediateLegal_iff (used : Bool) (imm : BitVec 12) :
    (used = false → imm = 0) ↔ ∃ k, imm = if used then k else 0 := by
  cases used with
  | false => exact ⟨fun h => ⟨0, h rfl⟩, fun ⟨_, h⟩ _ => h⟩
  | true => exact ⟨fun _ => ⟨imm, rfl⟩, fun _ h => nomatch h⟩

/-- The conditions (a), (b) and (c) of R75 for one row: the fields hold operands of its format. -/
theorem eq_fields_iff (row : FormatRow) (f : Fields) :
    (∃ vd va vb k, f = row.fields vd va vb k) ↔
      f.op = row.op ∧ RegisterFieldLegal row.usesVd f.vd ∧ RegisterFieldLegal row.usesVa f.va ∧
        RegisterFieldLegal row.usesVb f.vb ∧ (row.usesImm = false → f.imm12 = 0) := by
  simp only [registerFieldLegal_iff, immediateLegal_iff]
  constructor
  · rintro ⟨vd, va, vb, k, rfl⟩
    exact ⟨rfl, ⟨vd, rfl⟩, ⟨va, rfl⟩, ⟨vb, rfl⟩, ⟨k, rfl⟩⟩
  · obtain ⟨op, fvd, fva, fvb, imm⟩ := f
    rintro ⟨rfl, ⟨vd, rfl⟩, ⟨va, rfl⟩, ⟨vb, rfl⟩, ⟨k, rfl⟩⟩
    exact ⟨vd, va, vb, k, rfl⟩

theorem legalCommand_iff (cmd : Word) :
    LegalCommand cmd ↔
      ∃ row ∈ formatTable, (∃ vd va vb k, Fields.ofCmd cmd = row.fields vd va vb k) ∧
        NumberLegal (Fields.ofCmd cmd) := by
  simp only [LegalCommand, eq_fields_iff, NumberLegal, and_assoc]

/-- The conditions (d) and (e) of R75 on the word of an instruction are its `wellFormed`. -/
theorem numberLegal_encode (i : Instr) : NumberLegal (Fields.ofCmd (encode i).cmd) ↔ i.wellFormed = true := by
  cases i with
  | csrr n arg => simp [NumberLegal, encode, Instr.wellFormed, csrNumberExists]
  | csrw n arg => simp [NumberLegal, encode, Instr.wellFormed, csrNumberExists, csrNumberWritable, or_assoc]
  | _ => simp [NumberLegal, encode, Instr.wellFormed]

theorem legalCommand_iff_decode (b : Beat) :
    LegalCommand b.cmd ↔ ∃ i, decode b = .ok i ∧ i.wellFormed = true := by
  rw [legalCommand_iff]
  constructor
  · rintro ⟨row, hrow, ⟨vd, va, vb, k, hfields⟩, hnumber⟩
    obtain ⟨build, hreads, -⟩ := decode_reads hrow (congrArg Fields.op hfields)
    have hdecode := (hreads _).mpr ⟨vd, va, vb, k, hfields, rfl⟩
    exact ⟨_, hdecode, (numberLegal_encode _).mp (by rwa [encode_of_decode hdecode])⟩
  · rintro ⟨i, hdecode, hwf⟩
    obtain ⟨row, hrow, hop⟩ := op_mem_of_decode hdecode
    obtain ⟨build, hreads, -⟩ := decode_reads hrow hop
    obtain ⟨vd, va, vb, k, hfields, -⟩ := (hreads i).mp hdecode
    exact ⟨row, hrow, ⟨vd, va, vb, k, hfields⟩, encode_of_decode hdecode ▸ (numberLegal_encode i).mpr hwf⟩

/-! ### How an instruction ends (60_exceptions.md R172) -/

/-- The outcome is a next state whose response has another status than `ILLEGAL_COMMAND`. -/
def EndsLegally (o : Outcome) : Prop :=
  ∃ t r, o = .next t ∧ t.rsp = some r ∧ r.status ≠ .error .illegalCommand

theorem endsLegally_respond (d : Word) (s : State) : EndsLegally (respond d s) := ⟨_, _, rfl, rfl, nofun⟩

theorem endsLegally_raise {e : Error} (he : e ≠ .illegalCommand) (b : Beat) (s : State) : EndsLegally (raise e b s) :=
  ⟨_, _, rfl, rfl, fun h => he (Status.error.inj h)⟩

/-- A command with one check, which raises another error than `ILLEGAL_COMMAND`. -/
theorem endsLegally_ite {c : Prop} [Decidable c] {e : Error} (he : e ≠ .illegalCommand) (b : Beat) (d : Word)
    (s t : State) : EndsLegally (if c then raise e b s else respond d t) := by
  split
  · exact endsLegally_raise he b s
  · exact endsLegally_respond d t

/-- `CSRR` and `CSRW` raise on the numbers R75 (d), (e) forbid; no other instruction is ill-formed. -/
theorem exec_of_not_wellFormed {i : Instr} (h : ¬ i.wellFormed = true) (s : State) :
    exec i s = raise .illegalCommand (encode i) s := by
  cases i with
  | csrr n arg =>
    have hn : ¬ n.toNat ≤ 0x00B := fun hle => h (decide_eq_true hle)
    exact exec_csrr_illegal (Csr.ofNumber_eq_none (Nat.not_le.mp hn))
  | csrw n arg =>
    refine exec_csrw_illegal ?_ ?_ ?_ <;>
    · rintro rfl
      exact h rfl
  | _ => exact absurd rfl h

/-- A read of a control register raises `NOT_CONFIGURED` or `NO_RESULT`, if anything (R161). -/
theorem readCsr_ne_illegal {s : State} {c : Csr} {e : Error} (h : s.readCsr c = .error e) : e ≠ .illegalCommand := by
  rintro rfl
  rcases readCsr_eq_error h with ⟨rfl, hr⟩ | ⟨rfl | rfl | rfl | rfl, hm⟩
  · exact nomatch h.symm.trans (readCsr_r_error hr)
  all_goals exact nomatch h.symm.trans (readResult_error hm)

theorem endsLegally_csrr {n : BitVec 12} (hn : n.toNat ≤ 0x00B) (arg : Word) (s : State) :
    EndsLegally (exec (.csrr n arg) s) := by
  obtain ⟨c, hc⟩ := Option.isSome_iff_exists.mp ((Csr.ofNumber_isSome_iff n).mpr hn)
  cases hread : s.readCsr c with
  | ok d => exact exec_csrr_ok hc hread ▸ endsLegally_respond d s
  | error e => exact exec_csrr_raise hc hread ▸ endsLegally_raise (readCsr_ne_illegal hread) _ s

/-- A write of a writable register raises `INVALID_PARAMETER`, if anything (R162). -/
theorem writeCsr_ne_illegal {s : State} {c : Csr} {arg : Word} {e : Error} (hc : c = .r ∨ c = .lfsr ∨ c = .status)
    (h : s.writeCsr c arg = .error e) : e ≠ .illegalCommand := by
  rintro rfl
  rcases hc with rfl | rfl | rfl <;> simp only [State.writeCsr] at h
  · split at h <;> cases h
  · split at h <;> cases h
  · cases h

theorem endsLegally_csrw {n : BitVec 12} (hn : csrNumberWritable n = true) (arg : Word) (s : State) :
    EndsLegally (exec (.csrw n arg) s) := by
  obtain ⟨c, hwritable, hc⟩ : ∃ c : Csr, (c = .r ∨ c = .lfsr ∨ c = .status) ∧ Csr.ofNumber n = some c := by
    simp only [csrNumberWritable, Bool.or_eq_true, beq_iff_eq] at hn
    rcases hn with (rfl | rfl) | rfl
    · exact ⟨.r, by simp, rfl⟩
    · exact ⟨.lfsr, by simp, rfl⟩
    · exact ⟨.status, by simp, rfl⟩
  cases hwrite : s.writeCsr c arg with
  | ok t => exact exec_csrw_ok hc hwrite ▸ endsLegally_respond 0 t
  | error e => exact exec_csrw_raise hc hwrite ▸ endsLegally_raise (writeCsr_ne_illegal hwritable hwrite) _ s

/-- A legal instruction never ends with `ILLEGAL_COMMAND` (R172, R179). -/
theorem endsLegally_of_wellFormed {i : Instr} (h : i.wellFormed = true) (s : State) : EndsLegally (exec i s) := by
  cases i with
  | nop | vlen | vnot => exact endsLegally_respond _ _
  | vnew | vldw | vrdw | vget | vset | vclrb | vflip | vand | vor | alter => exact endsLegally_ite (by decide) _ _ _ _
  | csrr n arg => exact endsLegally_csrr (of_decide_eq_true h) arg s
  | csrw n arg => exact endsLegally_csrw (Bool.and_eq_true_iff.mp h).2 arg s
  | enc | dec | fht | unalter =>
    simp only [exec, execEnc, execDec, execFht, execUnalter]
    split
    · exact endsLegally_raise (by decide) _ _
    · exact endsLegally_respond _ _
  | frd =>
    simp only [exec, execFrd]
    split
    · exact endsLegally_ite (by decide) _ _ _ _
    · exact endsLegally_raise (by decide) _ _
    · exact endsLegally_raise (by decide) _ _
  | fmax =>
    simp only [exec, execFmax]
    split
    · exact endsLegally_respond _ _
    · exact endsLegally_raise (by decide) _ _
    · exact endsLegally_raise (by decide) _ _

theorem execBeat_of_decode {b : Beat} {i : Instr} (h : decode b = .ok i) (s : State) : execBeat b s = exec i s := by
  simp only [execBeat, h]

/-- Settles O4: the legal words are those that decode to a well-formed instruction, `legalCommand_iff_decode`; the
decoder raises on the others it rejects, and `CSRR` and `CSRW` on those it lets through. -/
theorem illegalCommandIsDecidedByTheWordAlone : Obligations.IllegalCommandIsDecidedByTheWordAlone := by
  intro b s
  refine ⟨legalCommand_iff_decode b, fun hillegal => ?_, fun hlegal => ?_⟩
  · cases hdecode : decode b with
    | error why => exact execBeat_of_decode_error hdecode
    | ok i =>
      have hwf : ¬ i.wellFormed = true := fun hwf => hillegal ((legalCommand_iff_decode b).mpr ⟨i, hdecode, hwf⟩)
      rw [execBeat_of_decode hdecode, exec_of_not_wellFormed hwf, encode_of_decode hdecode]
      rfl
  · obtain ⟨i, hdecode, hwf⟩ := (legalCommand_iff_decode b).mp hlegal
    rw [execBeat_of_decode hdecode]
    exact endsLegally_of_wellFormed hwf s

end Sys2Proof.Machine
end

section
/-! PROOF. Encoder, decoder and opcode table (spec/30_encoding.md): the round trips, and the rows as masks over the
formats' fields. -/

namespace Sys2Proof.Machine

/-! ### Decoding what the encoder writes (R72, R82) -/

section roundTrip
variable (op : BitVec 8) (vd va vb : VReg) (k : BitVec 12)

@[simp] theorem withReg_toField (n : VReg) (build : VReg → Except Reject Instr) :
    withReg n.toField build = build n := by
  rw [withReg, VReg.ofField_toField]

theorem formatZ_fields (i : Instr) : formatZ ⟨op, 0, 0, 0, 0⟩ i = .ok i := rfl

theorem formatC_fields (build : BitVec 12 → Instr) : formatC ⟨op, 0, 0, 0, k⟩ build = .ok (build k) := rfl

theorem formatD_fields (build : VReg → Instr) : formatD ⟨op, vd.toField, 0, 0, 0⟩ build = .ok (build vd) :=
  withReg_toField vd _

theorem formatDK_fields (build : VReg → BitVec 12 → Instr) :
    formatDK ⟨op, vd.toField, 0, 0, k⟩ build = .ok (build vd k) :=
  withReg_toField vd _

theorem formatA_fields (build : VReg → Instr) : formatA ⟨op, 0, va.toField, 0, 0⟩ build = .ok (build va) :=
  withReg_toField va _

theorem formatAK_fields (build : VReg → BitVec 12 → Instr) :
    formatAK ⟨op, 0, va.toField, 0, k⟩ build = .ok (build va k) :=
  withReg_toField va _

theorem formatDA_fields (build : VReg → VReg → Instr) :
    formatDA ⟨op, vd.toField, va.toField, 0, 0⟩ build = .ok (build vd va) :=
  (withReg_toField vd _).trans (withReg_toField va _)

theorem formatDAB_fields (build : VReg → VReg → VReg → Instr) :
    formatDAB ⟨op, vd.toField, va.toField, vb.toField, 0⟩ build = .ok (build vd va vb) :=
  (withReg_toField vd _).trans ((withReg_toField va _).trans (withReg_toField vb _))

end roundTrip

/-- Settles O1: the fields of an instruction's word are those its format reads the operands from. -/
theorem decodeOfEncodeIsTheInstruction : Obligations.DecodeOfEncodeIsTheInstruction := by
  intro i
  cases i <;> simp only [decode, encode, ofCmd_beatOf, beatOf_arg]
  case nop | frd | fmax => exact formatZ_fields _ _
  case csrr | csrw => exact formatC_fields _ _ _
  case vnew | vset | vclrb | vflip | enc => exact formatD_fields _ _ _
  case vldw => exact formatDK_fields _ _ _ _
  case vlen | vget | dec | fht => exact formatA_fields _ _ _
  case vrdw => exact formatAK_fields _ _ _ _
  case vnot | alter | unalter => exact formatDA_fields _ _ _ _
  case vand | vor => exact formatDAB_fields _ _ _ _ _

/-- Settles O2. -/
theorem encodeOfDecodeIsTheBeat : Obligations.EncodeOfDecodeIsTheBeat := fun _ _ => encode_of_decode

/-! ### The opcode table (R77) -/

/-- The mask a format gives its row (R77): the opcode, the unused fields, and the upper bits of the register fields. -/
def FormatRow.mask (row : FormatRow) : Word :=
  Fields.toCmd ⟨0xFF, if row.usesVd then 0xC else 0xF, if row.usesVa then 0xC else 0xF, if row.usesVb then 0xC else 0xF,
    if row.usesImm then 0 else 0xFFF⟩

/-- The pattern a format gives its row (R77): its opcode, and nothing else. -/
def FormatRow.pattern (row : FormatRow) : Word := Fields.toCmd ⟨row.op, 0, 0, 0, 0⟩

/-- Masks and patterns of spec/opcode_table.json are those of the formats of R72. -/
theorem opcodeTable_eq_formatTable :
    opcodeTable.map (fun row => (row.mask, row.pattern)) = formatTable.map fun row => (row.mask, row.pattern) := by
  decide

theorem and_registerMask_eq_zero_iff (used : Bool) (field : BitVec 4) :
    field &&& (if used then 0xC else 0xF) = 0 ↔ RegisterFieldLegal used field := by
  revert used field
  unfold RegisterFieldLegal
  decide

theorem and_immediateMask_eq_zero_iff (used : Bool) (imm : BitVec 12) :
    imm &&& (if used then 0 else 0xFFF) = 0 ↔ (used = false → imm = 0) := by
  have hkeep : imm &&& 0xFFF = imm := BitVec.and_allOnes
  have hdrop : imm &&& 0 = 0 := BitVec.and_zero
  cases used
  · simp only [Bool.false_eq_true, if_false, hkeep, true_implies]
  · simp only [if_true, hdrop, Bool.true_eq_false, false_implies]

/-- A word matches a format's mask and pattern exactly when its fields hold operands of that format. -/
theorem and_mask_eq_pattern_iff (row : FormatRow) (cmd : Word) :
    cmd &&& row.mask = row.pattern ↔ ∃ vd va vb k, Fields.ofCmd cmd = row.fields vd va vb k := by
  have hop : (Fields.ofCmd cmd).op &&& 0xFF = (Fields.ofCmd cmd).op := BitVec.and_allOnes
  have hfields : cmd &&& row.mask = row.pattern ↔ Fields.ofCmd (cmd &&& row.mask) = Fields.ofCmd row.pattern :=
    ⟨congrArg _, eq_of_ofCmd_eq⟩
  rw [hfields, eq_fields_iff, ofCmd_and, FormatRow.mask, FormatRow.pattern, Fields.ofCmd_toCmd, Fields.ofCmd_toCmd]
  simp only [Fields.mk.injEq, hop, and_registerMask_eq_zero_iff, and_immediateMask_eq_zero_iff]

section table
variable {row row' : OpcodeRow} {cmd : Word}

theorem matches_iff : row.matches cmd = true ↔ cmd &&& row.mask = row.pattern := beq_iff_eq

/-- A row of the opcode table is a format's row, with its mask and pattern. -/
theorem exists_formatRow (h : row ∈ opcodeTable) :
    ∃ format ∈ formatTable, row.mask = format.mask ∧ row.pattern = format.pattern := by
  have hmem := List.mem_map_of_mem (f := fun row : OpcodeRow => (row.mask, row.pattern)) h
  rw [opcodeTable_eq_formatTable] at hmem
  obtain ⟨format, hformat, heq⟩ := List.mem_map.mp hmem
  obtain ⟨hmask, hpattern⟩ := Prod.mk.inj heq
  exact ⟨format, hformat, hmask.symm, hpattern.symm⟩

/-- The mask of every row keeps the whole opcode, so a word that matches has the row's. -/
theorem op_of_matches (h : row ∈ opcodeTable) (hmatch : row.matches cmd = true) :
    (Fields.ofCmd cmd).op = (Fields.ofCmd row.pattern).op := by
  obtain ⟨format, -, hmask, hpattern⟩ := exists_formatRow h
  rw [matches_iff, hmask, hpattern] at hmatch
  obtain ⟨vd, va, vb, k, hfields⟩ := (and_mask_eq_pattern_iff format cmd).mp hmatch
  rw [hfields, hpattern, FormatRow.pattern, Fields.ofCmd_toCmd]
  rfl

theorem eq_of_pattern_op_eq :
    ∀ row ∈ opcodeTable, ∀ row' ∈ opcodeTable,
      (Fields.ofCmd row.pattern).op = (Fields.ofCmd row'.pattern).op → row = row' := by
  decide

/-- No word matches two rows. -/
theorem eq_of_matches (h : row ∈ opcodeTable) (h' : row' ∈ opcodeTable) (hmatch : row.matches cmd = true)
    (hmatch' : row'.matches cmd = true) : row = row' :=
  eq_of_pattern_op_eq row h row' h' ((op_of_matches h hmatch).symm.trans (op_of_matches h' hmatch'))

/-- A word that matches a row decodes. -/
theorem exists_decode_of_matches {b : Beat} (h : row ∈ opcodeTable) (hmatch : row.matches b.cmd = true) :
    ∃ i, decode b = .ok i := by
  obtain ⟨format, hformat, hmask, hpattern⟩ := exists_formatRow h
  rw [matches_iff, hmask, hpattern] at hmatch
  obtain ⟨vd, va, vb, k, hfields⟩ := (and_mask_eq_pattern_iff format b.cmd).mp hmatch
  obtain ⟨build, hreads, -⟩ := decode_reads hformat (congrArg Fields.op hfields)
  exact ⟨_, (hreads _).mpr ⟨vd, va, vb, k, hfields, rfl⟩⟩

end table

/-- The word of every instruction is in the row of its mnemonic. -/
theorem inRow (i : Instr) : Laws.InRow.Statement i := by
  cases i with
  | nop => exact Laws.InRow.nop _
  | csrr => exact Laws.InRow.csrr _ _
  | csrw => exact Laws.InRow.csrw _ _
  | vnew => exact Laws.InRow.vnew _ _
  | vldw => exact Laws.InRow.vldw _ _ _
  | vrdw => exact Laws.InRow.vrdw _ _ _
  | vlen => exact Laws.InRow.vlen _ _
  | vget => exact Laws.InRow.vget _ _
  | vset => exact Laws.InRow.vset _ _
  | vclrb => exact Laws.InRow.vclrb _ _
  | vflip => exact Laws.InRow.vflip _ _
  | vnot => exact Laws.InRow.vnot _ _ _
  | vand => exact Laws.InRow.vand _ _ _ _
  | vor => exact Laws.InRow.vor _ _ _ _
  | enc => exact Laws.InRow.enc _ _
  | dec => exact Laws.InRow.dec _ _
  | alter => exact Laws.InRow.alter _ _ _
  | fht => exact Laws.InRow.fht _ _
  | frd => exact Laws.InRow.frd _
  | fmax => exact Laws.InRow.fmax _
  | unalter => exact Laws.InRow.unalter _ _ _

/-- A word that decodes matches the row of its instruction. -/
theorem exists_matches_of_decode {b : Beat} {i : Instr} (h : decode b = .ok i) :
    ∃ row ∈ opcodeTable, row.matches b.cmd = true ∧ row.mnemonic = i.mnemonic := by
  obtain ⟨row, hrow, hname, hmatch⟩ := inRow i
  exact ⟨row, hrow, encode_of_decode h ▸ hmatch, hname⟩

/-- Settles O3: the row a word matches is the only one, so it is the row of the instruction the word decodes to. -/
theorem decoderAcceptsExactlyTheTableRows : Obligations.DecoderAcceptsExactlyTheTableRows := by
  intro b
  refine ⟨fun i h => exists_matches_of_decode h, fun row hrow hmatch => ?_,
    fun row hrow row' hrow' => eq_of_matches hrow hrow'⟩
  obtain ⟨i, hdecode⟩ := exists_decode_of_matches hrow hmatch
  obtain ⟨row', hrow', hmatch', hname⟩ := exists_matches_of_decode hdecode
  obtain rfl := eq_of_matches hrow hrow' hmatch hmatch'
  exact ⟨i, hdecode, hname.symm⟩

/-- Settles O5. -/
theorem writtenOutWordsDecode : Obligations.WrittenOutWordsDecode :=
  ⟨rfl, rfl, rfl, rfl, rfl, rfl, rfl, rfl, rfl⟩

end Sys2Proof.Machine
end

section
/-! PROOF. What one instruction can do: it raises, or it answers after one of the updates listed here; which of the two,
with which error, answer and update, is decided by the registers it reads (spec/10_state.md R20). -/

namespace Sys2Proof.Machine

/-! ### States with the same registers -/

section sameCodec
variable {s t : State}

theorem param?_of_sameCodec (h : SameCodec s t) : t.param? = s.param? := congrArg (Option.map _) h

theorem transform?_of_sameCodec (h : SameCodec s t) : t.transform? = s.transform? := congrArg (Option.bind · _) h

theorem peak?_of_sameCodec (h : SameCodec s t) : t.peak? = s.peak? :=
  congrArg (Option.bind · _) (transform?_of_sameCodec h)

theorem rvalid_of_sameCodec (h : SameCodec s t) : t.rvalid = s.rvalid :=
  congrArg Option.isSome (param?_of_sameCodec h)

theorem fvalid_of_sameCodec (h : SameCodec s t) : t.fvalid = s.fvalid :=
  congrArg Option.isSome (transform?_of_sameCodec h)

theorem mvalid_of_sameCodec (h : SameCodec s t) : t.mvalid = s.mvalid :=
  congrArg Option.isSome (peak?_of_sameCodec h)

end sameCodec

/-- The states agree in `R_MAX` and in every register but the trap record. -/
structure SameRegisters (s s' : State) : Prop where
  rMax : s'.rMax = s.rMax
  v : ∀ n, s'.v n = s.v n
  codec : s'.codec = s.codec
  lfsr : s'.lfsr = s.lfsr
  flips : s'.flips = s.flips

namespace SameRegisters
variable {s s' : State}

theorem refl (s : State) : SameRegisters s s := ⟨rfl, fun _ => rfl, rfl, rfl, rfl⟩

theorem putResponse (r : Response) (s : State) : SameRegisters s (s.putResponse r) :=
  ⟨rfl, State.putResponse_v r s, rfl, rfl, rfl⟩

theorem takeError (e : Error) (b : Beat) (s : State) : SameRegisters s (s.takeError e b) :=
  ⟨rfl, State.takeError_v e b s, rfl, rfl, rfl⟩

theorem capacity (h : SameRegisters s s') : s'.capacity = s.capacity := by
  rw [State.capacity, h.rMax, State.capacity]

theorem numWords (h : SameRegisters s s') : s'.numWords = s.numWords := by
  rw [State.numWords, h.capacity, State.numWords]

theorem param? (h : SameRegisters s s') : s'.param? = s.param? := param?_of_sameCodec h.codec

theorem rvalid (h : SameRegisters s s') : s'.rvalid = s.rvalid := rvalid_of_sameCodec h.codec

theorem fvalid (h : SameRegisters s s') : s'.fvalid = s.fvalid := fvalid_of_sameCodec h.codec

theorem peak? (h : SameRegisters s s') : s'.peak? = s.peak? := peak?_of_sameCodec h.codec

theorem readResult (h : SameRegisters s s') (sel : Peak → Word) : s'.readResult sel = s.readResult sel := by
  simp only [State.readResult, h.peak?]

/-- Only three control registers show the trap record (10_state.md R28). -/
theorem readCsr (h : SameRegisters s s') {c : Csr} (hstatus : c ≠ .status) (hecmd : c ≠ .ecmd) (hearg : c ≠ .earg) :
    s'.readCsr c = s.readCsr c := by
  cases c with
  | status => exact absurd rfl hstatus
  | ecmd => exact absurd rfl hecmd
  | earg => exact absurd rfl hearg
  | id => rfl
  | cap => simp only [State.readCsr, State.capValue, h.rMax]
  | r => simp only [State.readCsr, h.param?]
  | lfsr => simp only [State.readCsr, h.lfsr]
  | flips => simp only [State.readCsr, h.flips]
  | pos | peak | dist | msg => exact h.readResult _

end SameRegisters

/-! ### The updates -/

/-- The write of `CSRW LFSR` (10_state.md R31). -/
def State.seed (w : Word) (s : State) : State := { s with lfsr := w }

theorem State.seed_v (w : Word) (s : State) (n : VReg) : (s.seed w).v n = s.v n := s.v_with_lfsr w n

/-- `Update s i f`: in the state `s` the instruction `i` can end `OK`, and `f` is then its effect, but for the answer.
What the invariant needs to know of the values written stands with each update. -/
inductive Update (s : State) : Instr → (State → State) → Prop where
  | nothing {i : Instr} (hflags : flagEvent i = .none) : Update s i id
  | vector {i : Instr} {n : VReg} {x : Vec} (hdest : writtenVector i = some n) (hflags : flagEvent i = .none)
      (hx : s.Inv → x.Ok s.capacity) : Update s i (State.setV · n x)
  | alter {vd va : VReg} {arg : Word} : Update s (.alter vd va arg) (State.alter vd va arg.toNat)
  | configure {arg : Word} (hr : arg.toNat ≤ s.rMax) : Update s (.csrw 0x002 arg) (State.configure arg.toNat)
  | seed {arg : Word} (hne : arg ≠ 0) : Update s (.csrw 0x003 arg) (State.seed arg)
  | clear {arg : Word} (hbit : arg.getLsbD 3 = true) : Update s (.csrw 0x004 arg) State.clearError
  | transform {va : VReg} {arg : Word} {r : Nat} (hr : s.param? = some r) :
      Update s (.fht va arg) (State.loadTransform r (wht r (wordOperand r (s.v va))))
  | peak {arg : Word} {r : Nat} {f : Transform} (hc : s.codec = some ⟨r, some f⟩) :
      Update s (.fmax arg) (State.loadPeak r f.coeffs (peakOf r f.coeffs))
  | unalter {vd va : VReg} {arg : Word} {r : Nat} (hr : s.param? = some r) :
      Update s (.unalter vd va arg) (State.unalter vd r (wht r (wordOperand r (s.v va))))

/-- In both states the instruction raises the same error, or gives the same answer after the same update. -/
def RunsAlike (i : Instr) (s s' : State) : Prop :=
  (∃ e, exec i s = raise e (encode i) s ∧ exec i s' = raise e (encode i) s') ∨
    ∃ d f, Update s i f ∧ exec i s = respond d (f s) ∧ exec i s' = respond d (f s')

section runsAlike
variable {i : Instr} {s s' : State} {d : Word} {f : State → State}

theorem RunsAlike.raise {e : Error} (h : exec i s = raise e (encode i) s)
    (h' : exec i s' = Machine.raise e (encode i) s') : RunsAlike i s s' := .inl ⟨e, h, h'⟩

theorem RunsAlike.respond (hf : Update s i f) (h : exec i s = respond d (f s))
    (h' : exec i s' = Machine.respond d (f s')) : RunsAlike i s s' := .inr ⟨d, f, hf, h, h'⟩

/-- A command with one check, on registers both states share. -/
theorem RunsAlike.ite {c : Prop} [Decidable c] {e : Error} (hf : ¬ c → Update s i f)
    (h : exec i s = if c then Machine.raise e (encode i) s else Machine.respond d (f s))
    (h' : exec i s' = if c then Machine.raise e (encode i) s' else Machine.respond d (f s')) : RunsAlike i s s' := by
  by_cases hc : c
  · exact .raise (h.trans (if_pos hc)) (h'.trans (if_pos hc))
  · exact .respond (hf hc) (h.trans (if_neg hc)) (h'.trans (if_neg hc))

end runsAlike

section exec
variable {s s' : State}

theorem State.Inv.param?_le {r : Nat} (h : s.Inv) (hr : s.param? = some r) : r ≤ s.rMax := by
  obtain ⟨c, hc, rfl⟩ := Option.map_eq_some_iff.mp hr
  exact (h.codec c hc).1

theorem State.exists_param?_of_rvalid (h : s.rvalid = true) : ∃ r, s.param? = some r :=
  Option.isSome_iff_exists.mp h

theorem State.exists_codec_of_fvalid (h : s.fvalid = true) : ∃ r f, s.codec = some ⟨r, some f⟩ := by
  obtain ⟨f, hf⟩ := Option.isSome_iff_exists.mp h
  obtain ⟨⟨r, t⟩, hc, rfl⟩ := Option.bind_eq_some_iff.mp hf
  exact ⟨r, f, hc⟩

theorem vecWithWord_ok {x : Vec} {capacity k data : Nat} (hx : x.Ok capacity) :
    (vecWithWord x k data).Ok capacity := by
  obtain ⟨hlen, -⟩ := hx
  have hlt := vecWithWord_lt x k data
  rw [Vec.Ok, vecWithWord_len]
  exact ⟨hlen, hlt⟩

theorem exec_csrr_alike {n : BitVec 12} {arg : Word}
    (hread : ∀ c, Csr.ofNumber n = some c → s'.readCsr c = s.readCsr c) : RunsAlike (.csrr n arg) s s' := by
  cases hn : Csr.ofNumber n with
  | none => exact .raise (exec_csrr_illegal hn) (exec_csrr_illegal hn)
  | some c =>
    cases hr : s.readCsr c with
    | error e => exact .raise (exec_csrr_raise hn hr) (exec_csrr_raise hn ((hread c hn).trans hr))
    | ok d => exact .respond (.nothing rfl) (exec_csrr_ok hn hr) (exec_csrr_ok hn ((hread c hn).trans hr))

theorem exec_csrw_alike {n : BitVec 12} {arg : Word} (h : SameRegisters s s') : RunsAlike (.csrw n arg) s s' := by
  by_cases hr : n = Csr.number .r
  · subst hr
    by_cases hle : arg.toNat ≤ s.rMax
    · have hlt : ¬ s.rMax < arg.toNat := Nat.not_lt.mpr hle
      exact .respond (.configure hle) (exec_csrw_ok (c := .r) rfl (if_neg hlt))
        (exec_csrw_ok (c := .r) rfl (if_neg (h.rMax ▸ hlt)))
    · have hlt : s.rMax < arg.toNat := Nat.not_le.mp hle
      exact .raise (exec_csrw_raise (c := .r) rfl (if_pos hlt)) (exec_csrw_raise (c := .r) rfl (if_pos (h.rMax ▸ hlt)))
  by_cases hl : n = Csr.number .lfsr
  · subst hl
    by_cases harg : arg = 0
    · exact .raise (exec_csrw_raise (c := .lfsr) rfl (if_pos harg)) (exec_csrw_raise (c := .lfsr) rfl (if_pos harg))
    · exact .respond (.seed harg) (exec_csrw_ok (c := .lfsr) rfl (if_neg harg))
        (exec_csrw_ok (c := .lfsr) rfl (if_neg harg))
  by_cases hs : n = Csr.number .status
  · subst hs
    cases hbit : arg.getLsbD 3 with
    | false =>
      have hkeep (u : State) : exec (.csrw (Csr.number .status) arg) u = respond 0 u :=
        (exec_csrw_ok (c := .status) rfl rfl).trans (by rw [hbit]; rfl)
      exact .respond (.nothing (by rw [flagEvent, hbit]; rfl)) (hkeep s) (hkeep s')
    | true =>
      have hclear (u : State) : exec (.csrw (Csr.number .status) arg) u = respond 0 u.clearError :=
        (exec_csrw_ok (c := .status) rfl rfl).trans (by rw [hbit]; rfl)
      exact .respond (.clear hbit) (hclear s) (hclear s')
  exact .raise (exec_csrw_illegal hr hl hs) (exec_csrw_illegal hr hl hs)

/-- A command that rewrites bit `arg` keeps the value below 2^len. -/
theorem rewriteBit_alike {i : Instr} {vd : VReg} {arg : Word} {new : Nat → Nat → Nat} (h : SameRegisters s s')
    (hexec : ∀ u, exec i u = rewriteBit i vd arg new u) (hdest : writtenVector i = some vd)
    (hflags : flagEvent i = .none)
    (hnew : ∀ val len k, val < 2 ^ len → k < len → new val k < 2 ^ len) : RunsAlike i s s' := by
  refine .ite (f := (State.setV · vd ⟨(s.v vd).len, new (s.v vd).val arg.toNat⟩)) (fun hk => ?_) (hexec s) ?_
  · refine .vector hdest hflags fun hinv => ?_
    obtain ⟨hlen, hval⟩ := hinv.vectors vd
    exact ⟨hlen, hnew _ _ _ hval (Nat.not_le.mp hk)⟩
  · rw [hexec, rewriteBit, h.v]

/-- A command that combines two registers of one length keeps the value below 2^len. -/
theorem combineVecs_alike {i : Instr} {vd va vb : VReg} {op : Nat → Nat → Nat} (h : SameRegisters s s')
    (hexec : ∀ u, exec i u = combineVecs i vd va vb op u) (hdest : writtenVector i = some vd)
    (hflags : flagEvent i = .none)
    (hop : ∀ a b len, a < 2 ^ len → b < 2 ^ len → op a b < 2 ^ len) : RunsAlike i s s' := by
  refine .ite (f := (State.setV · vd ⟨(s.v va).len, op (s.v va).val (s.v vb).val⟩)) (fun hne => ?_) (hexec s) ?_
  · refine .vector hdest hflags fun hinv => ?_
    obtain ⟨hlen, hval⟩ := hinv.vectors va
    have hlenEq : (s.v va).len = (s.v vb).len := Decidable.not_not.mp hne
    obtain ⟨-, hval'⟩ := hinv.vectors vb
    exact ⟨hlen, hop _ _ _ hval (hlenEq ▸ hval')⟩
  · rw [hexec, combineVecs, h.v, h.v]

/-- Inversion of `exec`, for two states with the same registers at once. The premise excepts the reads that show the
trap record, where the two states may differ. -/
theorem exec_alike {i : Instr} (h : SameRegisters s s')
    (hread : ∀ n arg c, i = .csrr n arg → Csr.ofNumber n = some c → s'.readCsr c = s.readCsr c) : RunsAlike i s s' := by
  cases i with
  | nop arg => exact .respond (.nothing rfl) rfl rfl
  | csrr n arg => exact exec_csrr_alike fun c => hread n arg c rfl
  | csrw n arg => exact exec_csrw_alike h
  | vnew vd arg =>
    refine .ite (f := (State.setV · vd ⟨arg.toNat, 0⟩)) (fun hle => ?_) rfl ?_
    · exact .vector rfl rfl fun _ => ⟨Nat.not_lt.mp hle, Nat.two_pow_pos _⟩
    · simp only [exec, execVnew, h.capacity]
  | vldw vd k arg =>
    refine .ite (f := (State.setV · vd (vecWithWord (s.v vd) k.toNat arg.toNat))) (fun _ => ?_) rfl ?_
    · exact .vector rfl rfl fun hinv => vecWithWord_ok (hinv.vectors vd)
    · simp only [exec, execVldw, h.numWords, h.v]
  | vrdw va k arg =>
    refine .ite (f := id) (fun _ => .nothing rfl) rfl ?_
    simp only [exec, execVrdw, h.numWords, h.v, id]
  | vlen va arg => exact .respond (.nothing rfl) rfl (by simp only [exec, execVlen, h.v, id])
  | vget va arg =>
    refine .ite (f := id) (fun _ => .nothing rfl) rfl ?_
    simp only [exec, execVget, h.v, id]
  | vset vd arg =>
    exact rewriteBit_alike h (fun _ => rfl) rfl rfl fun _ _ _ => or_two_pow_lt
  | vclrb vd arg =>
    exact rewriteBit_alike (new := fun val k => val - 2 ^ k * (val.testBit k).toNat) h (fun _ => rfl) rfl rfl
      fun _ _ _ hval _ => (Nat.sub_le _ _).trans_lt hval
  | vflip vd arg =>
    exact rewriteBit_alike h (fun _ => rfl) rfl rfl fun _ _ _ => xor_two_pow_lt
  | vnot vd va arg =>
    refine .respond (f := (State.setV · vd (complementVec (s.v va)))) ?_ rfl ?_
    · exact .vector rfl rfl fun hinv => ⟨(hinv.vectors va).1, complementVec_lt _⟩
    · simp only [exec, execVnot, h.v]
  | vand vd va vb arg =>
    exact combineVecs_alike h (fun _ => rfl) rfl rfl fun _ _ _ ha _ => Nat.and_le_left.trans_lt ha
  | vor vd va vb arg =>
    exact combineVecs_alike h (fun _ => rfl) rfl rfl fun _ _ _ => Nat.or_lt_two_pow
  | enc vd arg =>
    cases hr : s.rvalid with
    | false => exact .raise (exec_enc_raise hr) (exec_enc_raise (h.rvalid.trans hr))
    | true =>
      obtain ⟨r, hr⟩ := State.exists_param?_of_rvalid hr
      refine .respond (.vector rfl rfl fun hinv => ?_) (exec_enc_ok hr) (exec_enc_ok (h.param?.trans hr))
      exact ⟨Nat.pow_le_pow_right (by decide) (hinv.param?_le hr), rmEncode_lt r _⟩
  | dec va arg =>
    cases hr : s.rvalid with
    | false => exact .raise (exec_dec_raise hr) (exec_dec_raise (h.rvalid.trans hr))
    | true =>
      obtain ⟨r, hr⟩ := State.exists_param?_of_rvalid hr
      refine .respond (.nothing rfl) (exec_dec_ok hr) ?_
      rw [exec_dec_ok (h.param?.trans hr), h.v, id]
  | alter vd va arg => exact .ite (fun _ => .alter) rfl rfl
  | fht va arg =>
    cases hr : s.rvalid with
    | false => exact .raise (exec_fht_raise hr) (exec_fht_raise (h.rvalid.trans hr))
    | true =>
      obtain ⟨r, hr⟩ := State.exists_param?_of_rvalid hr
      refine .respond (.transform hr) (exec_fht_ok hr) ?_
      rw [exec_fht_ok (h.param?.trans hr), h.v]
  | frd arg =>
    cases hf : s.fvalid with
    | false => exact .raise (exec_frd_noResult hf) (exec_frd_noResult (h.fvalid.trans hf))
    | true =>
      obtain ⟨r, f, hc⟩ := State.exists_codec_of_fvalid hf
      have hc' := h.codec.trans hc
      rcases Nat.lt_or_ge arg.toNat (2 ^ r) with hk | hk
      · exact .respond (.nothing rfl) (exec_frd_ok hc hk) (exec_frd_ok hc' hk)
      · exact .raise (exec_frd_badIndex hc hk) (exec_frd_badIndex hc' hk)
  | fmax arg =>
    cases hf : s.fvalid with
    | false => exact .raise (exec_fmax_raise hf) (exec_fmax_raise (h.fvalid.trans hf))
    | true =>
      obtain ⟨r, f, hc⟩ := State.exists_codec_of_fvalid hf
      exact .respond (.peak hc) (exec_fmax_ok hc) (exec_fmax_ok (h.codec.trans hc))
  | unalter vd va arg =>
    cases hr : s.rvalid with
    | false => exact .raise (exec_unalter_raise hr) (exec_unalter_raise (h.rvalid.trans hr))
    | true =>
      obtain ⟨r, hr⟩ := State.exists_param?_of_rvalid hr
      refine .respond (.unalter hr) (exec_unalter_ok hr) ?_
      rw [exec_unalter_ok (h.param?.trans hr), h.v]

/-- Inversion of `exec`. -/
theorem exec_update (i : Instr) (s : State) :
    (∃ e, exec i s = raise e (encode i) s) ∨ ∃ d f, Update s i f ∧ exec i s = respond d (f s) := by
  rcases exec_alike (SameRegisters.refl s) (i := i) fun _ _ _ _ _ => rfl with ⟨e, h, -⟩ | ⟨d, f, hf, h, -⟩
  · exact .inl ⟨e, h⟩
  · exact .inr ⟨d, f, hf, h⟩

/-- `exec_update` with the next state named. -/
theorem exec_next {i : Instr} {t : State} (h : exec i s = .next t) :
    (∃ e, t = s.takeError e (encode i)) ∨ ∃ d f, Update s i f ∧ t = (f s).putResponse ⟨.ok, d⟩ := by
  rcases exec_update i s with ⟨e, he⟩ | ⟨d, f, hf, he⟩
  · exact .inl ⟨e, raise_next.mp (he.symm.trans h)⟩
  · exact .inr ⟨d, f, hf, respond_next.mp (he.symm.trans h)⟩

end exec

end Sys2Proof.Machine
end

section
/-! PROOF. The ports (spec/30_encoding.md R79 to R81, spec/70_reset_and_hazards.md sections 1, 3 and 4): the five port
events, the one answer of every beat, and a program's run through the handshake. -/

namespace Sys2Proof.Machine

/-! ### The five port events -/

section events
variable {s : State} {p : PortIn} {rest : List PortIn} {b : Beat} {r : Response}

theorem State.portIn_of_cons (h : s.inputs = p :: rest) : s.portIn = p := by
  rw [State.portIn, h, List.headD_cons]

theorem State.popInput_of_cons (h : s.inputs = p :: rest) : s.popInput = { s with inputs := rest } := by
  rw [State.popInput, h, List.tail_cons]

theorem State.popInput_of_nil (h : s.inputs = []) : s.popInput = s := by
  rw [State.popInput, h, List.tail_nil, ← h]

theorem State.cmdReady_of_rst (h : s.portIn.rst = true) : s.cmdReady = false := by
  rw [State.cmdReady, h, Bool.not_true, Bool.false_and]

theorem State.rspOut_of_rst (h : s.portIn.rst = true) : s.rspOut = none := if_pos h

theorem State.rspOut_of_not_rst (h : s.portIn.rst = false) : s.rspOut = s.rsp := if_neg (Bool.eq_false_iff.mp h)

/-- Reset beats every other event (R201). -/
theorem step_reset (hrst : s.portIn.rst = true) : step s = .next s.popInput.resetEvent := if_pos hrst

/-- A ready port takes what is presented (R81). -/
theorem State.accepted_of_ready (hrst : s.portIn.rst = false) (hrsp : s.rsp = none) : s.accepted = s.portIn.cmd := by
  rw [State.accepted, State.cmdReady_of_rsp_none hrsp, hrst]
  rfl

/-- A pending response keeps the command port from being ready (R81). -/
theorem State.accepted_of_pending (hrsp : s.rsp = some r) : s.accepted = none := by
  rw [State.accepted, State.cmdReady, hrsp, Option.isNone_some, Bool.and_false]
  rfl

theorem step_accept (hrst : s.portIn.rst = false) (hrsp : s.rsp = none) (hcmd : s.portIn.cmd = some b) :
    step s = execBeat b s.popInput := by
  simp only [step, portEvent, hrst, Bool.false_eq_true, if_false, State.accepted_of_ready hrst hrsp, hcmd]

/-- With nothing accepted, the response port decides: a response is transferred. -/
theorem step_of_transferred_some (hrst : s.portIn.rst = false) (hacc : s.accepted = none)
    (htransferred : s.transferred = some r) : step s = .next (s.popInput.transfer r) := by
  simp only [step, portEvent, hrst, Bool.false_eq_true, if_false, hacc, htransferred]

/-- With nothing accepted and nothing transferred, the event only passes. -/
theorem step_of_transferred_none (hrst : s.portIn.rst = false) (hacc : s.accepted = none)
    (htransferred : s.transferred = none) : step s = .next s.popInput := by
  simp only [step, portEvent, hrst, Bool.false_eq_true, if_false, hacc, htransferred]

theorem step_idle (hrst : s.portIn.rst = false) (hrsp : s.rsp = none) (hcmd : s.portIn.cmd = none) :
    step s = .next s.popInput := by
  have htransferred : s.transferred = none := by
    rw [State.transferred, State.rspOut_of_not_rst hrst, hrsp, ite_self]
  exact step_of_transferred_none hrst ((State.accepted_of_ready hrst hrsp).trans hcmd) htransferred

theorem step_transfer (hrst : s.portIn.rst = false) (hrsp : s.rsp = some r) (hready : s.portIn.rspReady = true) :
    step s = .next (s.popInput.transfer r) := by
  have htransferred : s.transferred = some r := by
    rw [State.transferred, if_pos hready, State.rspOut_of_not_rst hrst, hrsp]
  exact step_of_transferred_some hrst (State.accepted_of_pending hrsp) htransferred

theorem step_hold (hrst : s.portIn.rst = false) (hrsp : s.rsp = some r) (hready : s.portIn.rspReady = false) :
    step s = .next s.popInput := by
  have htransferred : s.transferred = none := if_neg (Bool.eq_false_iff.mp hready)
  exact step_of_transferred_none hrst (State.accepted_of_pending hrsp) htransferred

/-- Inversion of `step`. -/
theorem step_cases (s : State) :
    (s.portIn.rst = true ∧ step s = .next s.popInput.resetEvent) ∨
    (s.portIn.rst = false ∧
      ((∃ b, step s = execBeat b s.popInput) ∨ (∃ r, step s = .next (s.popInput.transfer r)) ∨
        step s = .next s.popInput)) := by
  cases hrst : s.portIn.rst with
  | true => exact .inl ⟨rfl, step_reset hrst⟩
  | false =>
    refine .inr ⟨rfl, ?_⟩
    cases hrsp : s.rsp with
    | none =>
      cases hcmd : s.portIn.cmd with
      | none => exact .inr (.inr (step_idle hrst hrsp hcmd))
      | some b => exact .inl ⟨b, step_accept hrst hrsp hcmd⟩
    | some r =>
      cases hready : s.portIn.rspReady with
      | false => exact .inr (.inr (step_hold hrst hrsp hready))
      | true => exact .inr (.inl ⟨r, step_transfer hrst hrsp hready⟩)

end events

/-- Settles O6. -/
theorem stepRunsTheDecodedCommand : Obligations.StepRunsTheDecodedCommand := by
  intro s p rest b i hin hrst hcmd hrsp hdecode
  rw [← State.portIn_of_cons hin] at hrst hcmd
  rw [step_accept hrst hrsp hcmd, execBeat_of_decode hdecode, State.popInput_of_cons hin]

/-- Settles O7. -/
theorem stepRaisesOnARejectedWord : Obligations.StepRaisesOnARejectedWord := by
  intro s p rest b why hin hrst hcmd hrsp hdecode
  rw [← State.portIn_of_cons hin] at hrst hcmd
  rw [step_accept hrst hrsp hcmd, execBeat_of_decode_error hdecode, State.popInput_of_cons hin, Trapped]

/-- Settles O8. -/
theorem pendingResponseWaitsForTheHost : Obligations.PendingResponseWaitsForTheHost := by
  intro s p rest r hin hrst hrsp
  rw [← State.portIn_of_cons hin] at hrst ⊢
  refine ⟨fun hready => ?_, fun hready => ?_⟩
  · rw [step_hold hrst hrsp hready, State.popInput_of_cons hin]
  · rw [step_transfer hrst hrsp hready, State.popInput_of_cons hin, State.transfer]

/-- Settles O9: a host whose list has run out presents nothing and takes nothing. -/
theorem idleBlockHoldsItsState : Obligations.IdleBlockHoldsItsState := by
  intro s
  refine ⟨fun hnil => ?_, fun p rest hin hrst hcmd hrsp => ?_⟩
  · have hport : s.portIn = ⟨false, none, false⟩ := by rw [State.portIn, hnil, List.headD_nil]
    have hrst : s.portIn.rst = false := by rw [hport]
    refine Eq.trans ?_ (congrArg _ (State.popInput_of_nil hnil))
    cases hrsp : s.rsp with
    | none => exact step_idle hrst hrsp (by rw [hport])
    | some r => exact step_hold hrst hrsp (by rw [hport])
  · rw [← State.portIn_of_cons hin] at hrst hcmd
    rw [step_idle hrst hrsp hcmd, State.popInput_of_cons hin]

/-- Settles O10. -/
theorem resetEventGivesTheResetState : Obligations.ResetEventGivesTheResetState := by
  intro s p rest hin hrst
  rw [← State.portIn_of_cons hin] at hrst
  refine ⟨?_, State.cmdReady_of_rst hrst, State.rspOut_of_rst hrst⟩
  rw [step_reset hrst, State.popInput_of_cons hin, State.resetEvent]

/-! ### The answer of a beat (R79, R212) -/

/-- No update touches the parameter or the host's side. -/
theorem Update.sameHost {s : State} {i : Instr} {f : State → State} (hf : Update s i f) : SameHost s (f s) := by
  cases hf with
  | nothing | configure | seed | clear | transform | peak => exact ⟨rfl, rfl, rfl⟩
  | vector => simp [SameHost]
  | alter => exact s.alter_sameHost _ _ _
  | unalter => simp [SameHost, State.unalter]

/-- Inversion of `execBeat`: a word that does not decode raises too. -/
theorem execBeat_cases (b : Beat) (s : State) :
    (∃ e, execBeat b s = raise e b s) ∨
      ∃ i d f, decode b = .ok i ∧ Update s i f ∧ execBeat b s = respond d (f s) := by
  cases hdecode : decode b with
  | error why => exact .inl ⟨_, execBeat_of_decode_error hdecode⟩
  | ok i =>
    rw [execBeat_of_decode hdecode, ← encode_of_decode hdecode]
    rcases exec_update i s with ⟨e, h⟩ | ⟨d, f, hf, h⟩
    · exact .inl ⟨e, h⟩
    · exact .inr ⟨i, d, f, rfl, hf, h⟩

/-- Settles O12. -/
theorem everyCommandIsAnsweredOnce : Obligations.EveryCommandIsAnsweredOnce := by
  intro b s
  rcases execBeat_cases b s with ⟨e, h⟩ | ⟨i, d, f, -, hf, h⟩
  · exact ⟨_, _, h, rfl, fun _ _ => rfl, rfl, rfl, rfl⟩
  · exact ⟨_, _, h, rfl, nofun, hf.sameHost⟩

/-- Settles O13: an accepted beat has a next state, `everyCommandIsAnsweredOnce`. -/
theorem stepAlwaysAnswersANextState : Obligations.StepAlwaysAnswersANextState := by
  intro s
  rcases step_cases s with ⟨-, h⟩ | ⟨-, ⟨b, h⟩ | ⟨r, h⟩ | h⟩
  · exact ⟨_, h⟩
  · obtain ⟨t, -, hnext, -⟩ := everyCommandIsAnsweredOnce b s.popInput
    exact ⟨t, h.trans hnext⟩
  · exact ⟨_, h⟩
  · exact ⟨_, h⟩

/-! ### The run of a program (20_memory.md R58, 70_reset_and_hazards.md R209) -/

/-- The state with another host behind its ports. -/
def State.withHost (inputs : List PortIn) (taken : List Response) (s : State) : State :=
  { s with inputs := inputs, taken := taken }

section withHost
variable {s t : State} {inputs : List PortIn} {taken : List Response}

theorem State.withHost_v (n : VReg) : (s.withHost inputs taken).v n = s.v n := by cases n <;> rfl

theorem sameRegisters_withHost : SameRegisters s (s.withHost inputs taken) :=
  ⟨rfl, fun _ => State.withHost_v _, rfl, rfl, rfl⟩

theorem State.setV_withHost (n : VReg) (x : Vec) :
    (s.withHost inputs taken).setV n x = (s.setV n x).withHost inputs taken := by cases n <;> rfl

/-- An update does not look at the host's side. -/
theorem Update.withHost {i : Instr} {f : State → State} (hf : Update s i f) :
    f (s.withHost inputs taken) = (f s).withHost inputs taken := by
  cases hf with
  | nothing | configure | seed | clear | transform | peak => rfl
  | vector => exact State.setV_withHost _ _
  | alter => rw [State.alter, State.withHost_v, State.setV_withHost]; rfl
  | unalter =>
    rw [State.unalter, State.unalter]
    exact State.setV_withHost (s := s.loadPeak _ _ _) _ _

/-- A command does the same whatever host is behind the ports. -/
theorem execBeat_withHost {b : Beat} (h : execBeat b s = .next t) :
    execBeat b (s.withHost inputs taken) = .next (t.withHost inputs taken) := by
  cases hdecode : decode b with
  | error why =>
    rw [execBeat_of_decode_error hdecode] at h ⊢
    cases h
    rfl
  | ok i =>
    rw [execBeat_of_decode hdecode] at h ⊢
    have hread (n : BitVec 12) (arg : Word) (c : Csr) (_ : i = .csrr n arg) (_ : Csr.ofNumber n = some c) :
        (s.withHost inputs taken).readCsr c = s.readCsr c := by cases c <;> rfl
    rcases exec_alike sameRegisters_withHost hread with ⟨e, he, he'⟩ | ⟨d, f, hf, he, he'⟩
    · obtain rfl := raise_next.mp (he.symm.trans h)
      exact he'
    · obtain rfl := respond_next.mp (he.symm.trans h)
      rw [he', hf.withHost]
      rfl

end withHost

theorem core_run_succ {s t : State} (h : step s = .next t) (n : Nat) : core.run (n + 1) s = core.run n t := by
  have hstep : core.step s = .next t := h
  simp only [Host.Core.run, hstep]

/-- The two events of one beat: its execution, and the transfer of its response. -/
theorem core_run_beat {b : Beat} {s t : State} {r : Response} (hrsp : s.rsp = none) (hexec : execBeat b s = .next t)
    (hanswer : t.rsp = some r) (rest : List PortIn) (taken : List Response) (n : Nat) :
    core.run (n + 2) (s.withHost (presentBeat b :: takeResponse :: rest) taken) =
      core.run n (({ t with rsp := none } : State).withHost rest (taken ++ [r])) := by
  have haccept : step (s.withHost (presentBeat b :: takeResponse :: rest) taken) =
      .next (t.withHost (takeResponse :: rest) taken) :=
    (step_accept (s := s.withHost _ taken) rfl hrsp rfl).trans (execBeat_withHost (s := s) hexec)
  have htransfer : step (t.withHost (takeResponse :: rest) taken) =
      .next (({ t with rsp := none } : State).withHost rest (taken ++ [r])) :=
    step_transfer (s := t.withHost _ taken) rfl hanswer rfl
  rw [core_run_succ haccept, core_run_succ htransfer]

/-- By induction on the program, for any responses taken before it. -/
theorem core_run_hostProgram (bs : List Beat) (s : State) (taken : List Response) (hrsp : s.rsp = none)
    (hin : s.inputs = []) :
    ∃ rs t, Runs bs s rs t ∧ rs.length = bs.length ∧ t.inputs = [] ∧
      core.run (2 * bs.length) (s.withHost (hostProgram bs) taken) = .next (t.withHost [] (taken ++ rs)) := by
  induction bs generalizing s taken with
  | nil =>
    refine ⟨[], s, .nil s, rfl, hin, ?_⟩
    rw [List.append_nil]
    rfl
  | cons b bs ih =>
    obtain ⟨t, r, hexec, hanswer, -, -, hinputs, -⟩ := everyCommandIsAnsweredOnce b s
    obtain ⟨rs, u, hruns, hlen, hnil, hrun⟩ := ih { t with rsp := none } (taken ++ [r]) rfl (hinputs.trans hin)
    refine ⟨r :: rs, u, .cons hexec hanswer hruns, congrArg (· + 1) hlen, hnil, ?_⟩
    rw [hostProgram, List.length_cons, Nat.mul_succ, core_run_beat hrsp hexec hanswer, hrun, List.append_assoc,
      List.singleton_append]

/-- Settles O14. -/
theorem programRunIsTheFoldOfItsCommands : Obligations.ProgramRunIsTheFoldOfItsCommands := by
  intro bs s hrsp hin
  obtain ⟨rs, t, hruns, hlen, hnil, hrun⟩ := core_run_hostProgram bs s s.taken hrsp hin
  refine ⟨rs, t, hruns, hlen, ?_⟩
  rw [State.withHost, ← hnil] at hrun
  exact hrun

end Sys2Proof.Machine
end

section
/-! PROOF. The invariant of spec/10_state.md R39: each operation on the state keeps it, so each update does, so each
port event does. -/

namespace Sys2Proof.Machine

/-! ### The operations on the state -/

section operations
variable {s t : State}

/-- The invariant speaks of the registers, and of the trap record in its clause (f) only. -/
theorem State.Inv.of_sameRegisters (h : s.Inv) (hregs : SameRegisters s t) (hrecord : t.err = false → t.cause = .ok) :
    t.Inv where
  legal := hregs.rMax ▸ h.legal
  vectors n := hregs.v n ▸ hregs.capacity ▸ h.vectors n
  codec c hc := hregs.rMax ▸ h.codec c (hregs.codec ▸ hc)
  lfsr := hregs.lfsr ▸ h.lfsr
  record := hrecord
  flips := hregs.flips ▸ hregs.capacity ▸ h.flips

theorem State.Inv.putResponse (h : s.Inv) (r : Response) : (s.putResponse r).Inv :=
  h.of_sameRegisters (.putResponse r s) h.record

theorem State.Inv.takeError (h : s.Inv) (e : Error) (b : Beat) : (s.takeError e b).Inv :=
  h.of_sameRegisters (.takeError e b s) nofun

theorem State.Inv.clearError (h : s.Inv) : s.clearError.Inv :=
  h.of_sameRegisters ⟨rfl, s.clearError_v, rfl, rfl, rfl⟩ fun _ => rfl

theorem State.Inv.popInput (h : s.Inv) : s.popInput.Inv :=
  h.of_sameRegisters ⟨rfl, s.popInput_v, rfl, rfl, rfl⟩ h.record

theorem State.Inv.transfer (h : s.Inv) (r : Response) : (s.transfer r).Inv :=
  h.of_sameRegisters ⟨rfl, s.transfer_v r, rfl, rfl, rfl⟩ h.record

theorem State.Inv.setV (h : s.Inv) {n : VReg} {x : Vec} (hx : x.Ok s.capacity) : (s.setV n x).Inv where
  legal := by simpa using h.legal
  vectors m := by
    rw [State.v_setV, State.setV_capacity]
    split
    · exact hx
    · exact h.vectors m
  codec := by simpa using h.codec
  lfsr := by simpa using h.lfsr
  record := by simpa using h.record
  flips := by simpa using h.flips

theorem State.Inv.seed (h : s.Inv) {w : Word} (hw : w ≠ 0) : (s.seed w).Inv where
  legal := h.legal
  vectors n := s.seed_v w n ▸ h.vectors n
  codec := h.codec
  lfsr := hw
  record := h.record
  flips := h.flips

theorem State.v_with_codec (c : Option Codec) (s : State) (n : VReg) : ({ s with codec := c } : State).v n = s.v n := by
  cases n <;> rfl

/-- Writing the codec cell. -/
theorem State.Inv.withCodec (h : s.Inv) {c : Codec} (hc : c.Ok s.rMax) : ({ s with codec := some c } : State).Inv where
  legal := h.legal
  vectors n := State.v_with_codec (some c) s n ▸ h.vectors n
  codec c' hc' := by
    obtain rfl := Option.some.inj hc'
    exact hc
  lfsr := h.lfsr
  record := h.record
  flips := h.flips

theorem State.Inv.configure (h : s.Inv) {r : Nat} (hr : r ≤ s.rMax) : (s.configure r).Inv :=
  h.withCodec ⟨hr, nofun⟩

theorem Transform.ok_wht (r : Nat) (x : Vec) : Transform.Ok r ⟨wht r (wordOperand r x), none⟩ :=
  ⟨⟨_, wordOperand_lt r x, rfl⟩, nofun⟩

theorem State.Inv.loadTransform (h : s.Inv) {r : Nat} (hr : r ≤ s.rMax) (x : Vec) :
    (s.loadTransform r (wht r (wordOperand r x))).Inv :=
  h.withCodec ⟨hr, fun _ ht => Option.some.inj ht ▸ Transform.ok_wht r x⟩

/-- A search over a valid file writes valid results: `peakOf_isPeakOf`. -/
theorem State.Inv.loadPeak (h : s.Inv) {r : Nat} (hr : r ≤ s.rMax) {f : Transform} (hf : f.Ok r) :
    (s.loadPeak r f.coeffs (peakOf r f.coeffs)).Inv := by
  obtain ⟨⟨c, hc, hcoeffs⟩, -⟩ := hf
  obtain ⟨-, hmax⟩ := h.legal
  have hlen : f.coeffs.length = 2 ^ r := hcoeffs ▸ length_wht r c
  refine h.withCodec ⟨hr, fun t ht => ?_⟩
  obtain rfl := Option.some.inj ht
  refine ⟨⟨c, hc, hcoeffs⟩, fun p hp => ?_⟩
  obtain rfl := Option.some.inj hp
  exact peakOf_isPeakOf (hr.trans hmax) hlen

theorem State.Inv.unalter (h : s.Inv) {r : Nat} (hr : r ≤ s.rMax) (vd : VReg) (x : Vec) :
    (s.unalter vd r (wht r (wordOperand r x))).Inv :=
  (h.loadPeak hr (Transform.ok_wht r x)).setV ⟨Nat.pow_le_pow_right (by decide) hr, rmEncode_lt r _⟩

/-- The passage inverts bits below the length only, so the value stays below 2^len. -/
theorem channel_out_lt (threshold len : Nat) (c : Channel) (h : c.out < 2 ^ len) :
    (channel threshold len c).out < 2 ^ len := by
  refine Nat.lt_pow_two_of_testBit _ fun i hi => ?_
  have hbit : c.out.testBit i = false := Nat.testBit_lt_two_pow (h.trans_le (Nat.pow_le_pow_right (by decide) hi))
  rw [testBit_channel_out, hbit]
  simp [Nat.not_lt.mpr hi]

theorem State.Inv.alter (h : s.Inv) (vd va : VReg) (threshold : Nat) : (s.alter vd va threshold).Inv := by
  obtain ⟨hlen, hval⟩ := h.vectors va
  have hset := h.setV (n := vd) (x := ⟨(s.v va).len, (channel threshold (s.v va).len ⟨s.lfsr, (s.v va).val, 0⟩).out⟩)
    ⟨hlen, channel_out_lt _ _ _ hval⟩
  refine ⟨hset.legal, fun n => ?_, hset.codec, ?_, hset.record, ?_⟩
  · have hv := hset.vectors n
    rw [State.setV_capacity] at hv
    rw [State.alter, State.v_with_lfsr_flips, State.capacity, State.setV_rMax]
    exact hv
  · rw [State.alter_lfsr]
    exact lfsrStep_iterate_ne_zero h.lfsr _
  · have hcount := List.countP_le_length (p := fun i => decide (noiseSample s.lfsr i < threshold))
      (l := List.range (s.v va).len)
    rw [List.length_range] at hcount
    have hcapacity : (s.alter vd va threshold).capacity = s.capacity := by
      rw [State.alter, State.capacity, State.setV_rMax, State.capacity]
    rw [State.alter_flips, BitVec.toNat_ofNat, hcapacity]
    exact (Nat.mod_le _ _).trans (hcount.trans hlen)

end operations

/-- Settles O56, for every legal `R_MAX`; the one of log entry 1 is legal. -/
theorem resetSatisfiesTheInvariant : Obligations.ResetSatisfiesTheInvariant := by
  have hreset (rMax : Nat) (hlegal : Config.LegalRMax rMax) : (State.resetOf rMax).Inv :=
    { legal := hlegal
      vectors := fun n => State.resetOf_v rMax n ▸ ⟨Nat.zero_le _, Nat.one_pos⟩
      codec := nofun
      lfsr := by rw [State.resetOf_lfsr]; decide
      record := fun _ => rfl
      flips := Nat.zero_le _ }
  exact ⟨hreset _ ⟨by decide, by decide⟩, hreset⟩

theorem State.Inv.resetEvent {s : State} (h : s.Inv) : s.resetEvent.Inv :=
  (resetSatisfiesTheInvariant.2 s.rMax h.legal).of_sameRegisters
    ⟨rfl, fun n => (s.resetEvent_v n).trans (State.resetOf_v _ n).symm, rfl, rfl, rfl⟩ fun _ => rfl

/-! ### The commands and the step -/

section step
variable {s : State} {i : Instr} {f : State → State}

theorem State.Inv.update (h : s.Inv) (hf : Update s i f) : (f s).Inv := by
  cases hf with
  | nothing => exact h
  | vector _ _ hx => exact h.setV (hx h)
  | alter => exact h.alter _ _ _
  | configure hr => exact h.configure hr
  | seed hne => exact h.seed hne
  | clear => exact h.clearError
  | transform hr => exact h.loadTransform (h.param?_le hr) _
  | peak hc =>
    obtain ⟨hle, hfile⟩ := h.codec _ hc
    exact h.loadPeak hle (hfile _ rfl)
  | unalter hr => exact h.unalter (h.param?_le hr) _ _

theorem execBeat_keeps_inv {b : Beat} {t : State} (h : s.Inv) (hexec : execBeat b s = .next t) :
    t.Inv ∧ t.rMax = s.rMax := by
  rcases execBeat_cases b s with ⟨e, he⟩ | ⟨i, d, f, -, hf, he⟩
  · obtain rfl := raise_next.mp (he.symm.trans hexec)
    exact ⟨h.takeError e b, rfl⟩
  · obtain rfl := respond_next.mp (he.symm.trans hexec)
    obtain ⟨hrMax, -⟩ := hf.sameHost
    exact ⟨(h.update hf).putResponse _, hrMax⟩

theorem step_keeps_inv {t : State} (h : s.Inv) (hstep : step s = .next t) : t.Inv ∧ t.rMax = s.rMax := by
  rcases step_cases s with ⟨-, he⟩ | ⟨-, ⟨b, he⟩ | ⟨r, he⟩ | he⟩
  · cases he.symm.trans hstep
    exact ⟨h.popInput.resetEvent, rfl⟩
  · exact execBeat_keeps_inv (s := s.popInput) h.popInput (he.symm.trans hstep)
  · cases he.symm.trans hstep
    exact ⟨h.popInput.transfer r, rfl⟩
  · cases he.symm.trans hstep
    exact ⟨h.popInput, rfl⟩

end step

/-- R39 (a): a coefficient file stands in a codec cell. -/
theorem State.rvalid_of_fvalid {s : State} (h : s.fvalid = true) : s.rvalid = true := by
  obtain ⟨r, f, hc⟩ := State.exists_codec_of_fvalid h
  exact State.rvalid_of_codec_some hc

/-- R39 (b): results stand beside a coefficient file. -/
theorem State.fvalid_of_mvalid {s : State} (h : s.mvalid = true) : s.fvalid = true := by
  obtain ⟨p, hp⟩ := Option.isSome_iff_exists.mp h
  obtain ⟨f, hf, -⟩ := Option.bind_eq_some_iff.mp hp
  rw [State.fvalid, hf, Option.isSome_some]

/-- Settles O57: an event is a reset, a beat, a transfer or nothing, and each keeps the invariant, `step_keeps_inv`. -/
theorem stepKeepsTheInvariant : Obligations.StepKeepsTheInvariant := by
  intro s t hinv hstep
  obtain ⟨hkept, hrMax⟩ := step_keeps_inv hinv hstep
  exact ⟨hkept, hrMax, State.rvalid_of_fvalid, State.fvalid_of_mvalid⟩

end Sys2Proof.Machine
end

section
/-! PROOF. Errors and frames (spec/60_exceptions.md, spec/10_state.md R23 and R27): which error an instruction raises,
what each update leaves of the trap record, the flags and the registers, and the read commands. -/

namespace Sys2Proof.Machine

/-! ### The trap record (60_exceptions.md R176, R181) -/

/-- Of the updates, only the one of `CSRW STATUS` writes the trap record. -/
theorem Update.record {s : State} {i : Instr} {f : State → State} (hf : Update s i f) :
    SameRecord s (f s) ∨ ∃ a, i = .csrw 0x004 a ∧ a.getLsbD 3 = true ∧ f s = s.clearError := by
  cases hf with
  | nothing | configure | seed | transform | peak => exact .inl ⟨rfl, rfl, rfl, rfl⟩
  | vector => exact .inl (by simp [SameRecord])
  | alter => exact .inl (s.alter_sameRecord _ _ _)
  | unalter => exact .inl (by simp [SameRecord, State.unalter])
  | clear hbit => exact .inr ⟨_, rfl, hbit, rfl⟩

/-- Settles O15. -/
theorem raisingWritesOnlyTheTrapRecord : Obligations.RaisingWritesOnlyTheTrapRecord := by
  intro b s t r hexec hrsp
  rcases execBeat_cases b s with ⟨e, h⟩ | ⟨i, d, f, hdecode, hf, h⟩
  · obtain rfl := raise_next.mp (h.symm.trans hexec)
    cases hrsp
    refine ⟨fun e' he => ?_, nofun⟩
    cases he
    exact takeError_eq_trapped e b s
  · obtain rfl := respond_next.mp (h.symm.trans hexec)
    cases hrsp
    refine ⟨nofun, fun _ => ?_⟩
    rcases hf.record with ⟨herr, hcause, hecmd, hearg⟩ | ⟨a, rfl, hbit, hclear⟩
    · exact ⟨hecmd, hearg, .inl ⟨herr, hcause⟩⟩
    · rw [hclear]
      exact ⟨rfl, rfl, .inr ⟨a, hdecode, hbit, rfl, rfl⟩⟩

/-! ### The table of errors (R179, R180) -/

/-- The instruction raises the error `o` names, and ends `OK` when it names none. -/
def EndsAs (i : Instr) (s : State) (o : Option Error) : Prop :=
  (∀ e, o = some e → Raises i e s) ∧ (o = none → ∃ t d, exec i s = .next t ∧ Answers t d)

section endsAs
variable {i : Instr} {s t : State} {e : Error} {c : Prop} [Decidable c]

theorem EndsAs.raise (h : exec i s = raise e (encode i) s) : EndsAs i s (some e) :=
  ⟨fun _ he => Option.some.inj he ▸ raises_of_exec h, nofun⟩

theorem EndsAs.respond {d : Word} (h : exec i s = Machine.respond d t) : EndsAs i s none :=
  ⟨nofun, fun _ => ⟨_, d, h, rfl⟩⟩

/-- An error with its condition, before a rest of lower priority (R180). -/
theorem EndsAs.orElse {o : Option Error} (hraise : c → exec i s = Machine.raise e (encode i) s)
    (hrest : ¬ c → EndsAs i s o) : EndsAs i s ((errorIf e c).orElse fun _ => o) := by
  by_cases hc : c
  · rw [errorIf, if_pos hc, Option.orElse_some]
    exact .raise (hraise hc)
  · rw [errorIf, if_neg hc, Option.orElse_none]
    exact hrest hc

/-- The only error of a command, with its condition. -/
theorem EndsAs.errorIf (hraise : c → exec i s = Machine.raise e (encode i) s)
    (hok : ¬ c → ∃ d t, exec i s = Machine.respond d t) : EndsAs i s (errorIf e c) := by
  have h := EndsAs.orElse hraise fun hc =>
    let ⟨_, _, h⟩ := hok hc
    .respond h
  rwa [Option.orElse_eq_or, Option.or_none] at h

/-- A command that is one check. -/
theorem EndsAs.ite {d : Word} (h : exec i s = if c then Machine.raise e (encode i) s else Machine.respond d t) :
    EndsAs i s (Machine.errorIf e c) :=
  .errorIf (fun hc => h.trans (if_pos hc)) fun hc => ⟨d, t, h.trans (if_neg hc)⟩

/-- A command that needs a codec. -/
theorem EndsAs.configured (hraise : s.rvalid = false → exec i s = Machine.raise e (encode i) s)
    (hok : ∀ r, s.param? = some r → ∃ d t, exec i s = Machine.respond d t) :
    EndsAs i s (Machine.errorIf e (s.rvalid = false)) :=
  .errorIf hraise fun hvalid =>
    let ⟨r, hr⟩ := State.exists_param?_of_rvalid (eq_true_of_ne_false hvalid)
    hok r hr

end endsAs

section table
variable {s : State}

theorem endsAs_csrr (n : BitVec 12) (arg : Word) (s : State) :
    EndsAs (.csrr n arg) s (expectedError (.csrr n arg) s) := by
  refine .orElse (fun h => exec_csrr_illegal (Csr.ofNumber_eq_none h)) fun hn => ?_
  refine .orElse ?_ fun hr => .errorIf ?_ fun hm => ?_
  · rintro ⟨rfl, hinvalid⟩
    exact exec_csrr_raise (c := .r) rfl (readCsr_r_error hinvalid)
  · rintro ⟨rfl | rfl | rfl | rfl, hinvalid⟩ <;> exact exec_csrr_raise rfl (readResult_error hinvalid)
  · obtain ⟨d, h, -⟩ := exec_csrr_reads (s := s) (arg := arg) (Nat.not_lt.mp hn)
      (fun hn => eq_true_of_ne_false fun hinvalid => hr ⟨hn, hinvalid⟩)
      (fun hn => eq_true_of_ne_false fun hinvalid => hm ⟨hn, hinvalid⟩)
    exact ⟨d, s, h⟩

theorem endsAs_csrw (n : BitVec 12) (arg : Word) (s : State) :
    EndsAs (.csrw n arg) s (expectedError (.csrw n arg) s) := by
  refine .orElse (fun h => ?_) fun hn => .errorIf ?_ fun hok => ?_
  · obtain ⟨hr, hl, hs⟩ := by simpa only [not_or] using h
    exact exec_csrw_illegal hr hl hs
  · rintro (⟨rfl, harg⟩ | ⟨rfl, harg⟩)
    · exact exec_csrw_raise (c := .r) rfl (if_pos harg)
    · exact exec_csrw_raise (c := .lfsr) rfl (if_pos harg)
  · rcases Decidable.not_not.mp hn with rfl | rfl | rfl
    · exact ⟨0, _, exec_csrw_ok (c := .r) rfl (if_neg fun harg => hok (.inl ⟨rfl, harg⟩))⟩
    · exact ⟨0, _, exec_csrw_ok (c := .lfsr) rfl (if_neg fun harg => hok (.inr ⟨rfl, harg⟩))⟩
    · exact ⟨0, _, exec_csrw_ok (c := .status) rfl rfl⟩

/-- `NO_RESULT` before `BAD_INDEX` (R180). -/
theorem endsAs_frd (arg : Word) (s : State) : EndsAs (.frd arg) s (expectedError (.frd arg) s) := by
  cases hf : s.fvalid with
  | false =>
    have hexpected : expectedError (.frd arg) s = some .noResult := by simp only [expectedError, hf]
    rw [hexpected]
    exact .raise (exec_frd_noResult hf)
  | true =>
    obtain ⟨r, f, hc⟩ := State.exists_codec_of_fvalid hf
    have hexpected : expectedError (.frd arg) s = errorIf .badIndex (2 ^ r ≤ arg.toNat) := by
      simp only [expectedError, hf, State.param?_of_codec_some hc]
    rw [hexpected]
    exact .errorIf (exec_frd_badIndex hc) fun hk => ⟨_, _, exec_frd_ok hc (Nat.not_le.mp hk)⟩

theorem endsAs_fmax (arg : Word) (s : State) : EndsAs (.fmax arg) s (expectedError (.fmax arg) s) :=
  .errorIf exec_fmax_raise fun hvalid =>
    let ⟨_, _, hc⟩ := State.exists_codec_of_fvalid (eq_true_of_ne_false hvalid)
    ⟨_, _, exec_fmax_ok hc⟩

theorem endsAs_expectedError (i : Instr) (s : State) : EndsAs i s (expectedError i s) := by
  cases i with
  | nop | vlen | vnot => exact .respond rfl
  | vnew | vldw | vrdw | vget | vset | vclrb | vflip | vand | vor | alter => exact .ite rfl
  | csrr n arg => exact endsAs_csrr n arg s
  | csrw n arg => exact endsAs_csrw n arg s
  | enc => exact .configured exec_enc_raise fun _ hr => ⟨_, _, exec_enc_ok hr⟩
  | dec => exact .configured exec_dec_raise fun _ hr => ⟨_, _, exec_dec_ok hr⟩
  | fht => exact .configured exec_fht_raise fun _ hr => ⟨_, _, exec_fht_ok hr⟩
  | unalter => exact .configured exec_unalter_raise fun _ hr => ⟨_, _, exec_unalter_ok hr⟩
  | frd arg => exact endsAs_frd arg s
  | fmax arg => exact endsAs_fmax arg s

/-- Settles O16. -/
theorem errorsFollowTheTable : Obligations.ErrorsFollowTheTable := endsAs_expectedError

/-- An instruction raises nothing but the error of the table. -/
theorem expectedError_of_raises {i : Instr} {e : Error} (h : Raises i e s) : expectedError i s = some e := by
  obtain ⟨hraises, hok⟩ := errorsFollowTheTable i s
  cases hexpected : expectedError i s with
  | none =>
    obtain ⟨t, d, hnext, hanswer⟩ := hok hexpected
    cases hnext.symm.trans h
    cases hanswer
  | some e' =>
    have hsame := (hraises e' hexpected).symm.trans h
    injection hsame with hsame
    cases congrArg State.cause hsame
    rfl

end table

/-! ### The flags (10_state.md R27) -/

/-- What the row `event` of R27 makes of the four flags of `s`. -/
def FlagsAfter (event : FlagEvent) (s t : State) : Prop :=
  t.rvalid = (if event = .configure then true else s.rvalid) ∧
  t.fvalid = (if event = .configure then false
    else if event = .transform ∨ event = .transformAndPeak then true else s.fvalid) ∧
  t.mvalid = (if event = .configure ∨ event = .transform then false
    else if event = .peak ∨ event = .transformAndPeak then true else s.mvalid) ∧
  t.err = (if event = .clearErr then false else s.err)

section flags
variable {s t u : State}

/-- The flags are a function of the codec cell and of `ERR`. -/
theorem FlagsAfter.congr {event : FlagEvent} (hcodec : SameCodec t u) (herr : u.err = t.err)
    (h : FlagsAfter event s t) : FlagsAfter event s u := by
  rwa [FlagsAfter, rvalid_of_sameCodec hcodec, fvalid_of_sameCodec hcodec, mvalid_of_sameCodec hcodec, herr]

theorem flagsAfter_none (s : State) : FlagsAfter .none s s := ⟨rfl, rfl, rfl, rfl⟩

theorem Update.flagsAfter {i : Instr} {f : State → State} (hf : Update s i f) : FlagsAfter (flagEvent i) s (f s) := by
  cases hf with
  | nothing hflags => exact hflags ▸ flagsAfter_none s
  | vector _ hflags => exact hflags ▸ (flagsAfter_none s).congr (State.setV_codec _ _ _) (State.setV_err _ _ _)
  | alter =>
    obtain ⟨herr, -⟩ := s.alter_sameRecord _ _ _
    exact (flagsAfter_none s).congr (s.alter_sameCodec _ _ _) herr
  | configure | seed => exact ⟨rfl, rfl, rfl, rfl⟩
  | @clear arg hbit =>
    have hevent : flagEvent (.csrw 0x004 arg) = .clearErr := by rw [flagEvent, hbit]; rfl
    rw [hevent]
    exact ⟨rfl, rfl, rfl, rfl⟩
  | transform hr =>
    have hvalid : s.rvalid = true := by rw [State.rvalid, hr, Option.isSome_some]
    exact ⟨hvalid.symm, rfl, rfl, rfl⟩
  | peak hc => exact ⟨(State.rvalid_of_codec_some hc).symm, (State.fvalid_of_codec_some hc).symm, rfl, rfl⟩
  | @unalter vd va arg r hr =>
    have hcodec := s.unalter_codec vd r (wht r (wordOperand r (s.v va)))
    have hvalid : s.rvalid = true := by rw [State.rvalid, hr, Option.isSome_some]
    exact ⟨(State.rvalid_of_codec_some hcodec).trans hvalid.symm, State.fvalid_of_codec_some hcodec,
      State.mvalid_of_codec_some hcodec, State.setV_err _ _ _⟩

/-- Settles O59. -/
theorem flagsFollowTheTable : Obligations.FlagsFollowTheTable := by
  intro i s t hexec
  rcases exec_next hexec with ⟨e, rfl⟩ | ⟨d, f, hf, rfl⟩
  · refine ⟨fun _ _ => ⟨?_, ?_, ?_, rfl⟩, nofun⟩
    · exact rvalid_of_sameCodec rfl
    · exact fvalid_of_sameCodec rfl
    · exact mvalid_of_sameCodec rfl
  · exact ⟨nofun, fun _ _ => hf.flagsAfter.congr (u := (f s).putResponse _) rfl rfl⟩

/-! ### `RVALID` (60_exceptions.md section 1) -/

/-- No row of R27 clears `RVALID`. -/
theorem Update.rvalid {i : Instr} {f : State → State} (hf : Update s i f) (h : s.rvalid = true) :
    (f s).rvalid = true := by
  obtain ⟨hr, -⟩ := hf.flagsAfter
  rw [hr, h, ite_self]

theorem step_keeps_rvalid (h : s.rvalid = true) (hrst : s.portIn.rst = false) (hstep : step s = .next t) :
    t.rvalid = true := by
  rcases step_cases s with ⟨hreset, -⟩ | ⟨-, ⟨b, he⟩ | ⟨r, he⟩ | he⟩
  · exact nomatch hreset.symm.trans hrst
  · rcases execBeat_cases b s.popInput with ⟨e, he'⟩ | ⟨i, d, f, -, hf, he'⟩
    · cases (he.trans he').symm.trans hstep
      exact h
    · cases (he.trans he').symm.trans hstep
      exact hf.rvalid h
  all_goals
    cases he.symm.trans hstep
    exact h

theorem errorIf_ne {e e' : Error} (h : e ≠ e') (c : Prop) [Decidable c] : errorIf e c ≠ some e' := by
  unfold errorIf
  split
  · exact fun heq => h (Option.some.inj heq)
  · nofun

/-- `NOT_CONFIGURED` stands in the table only under `RVALID = 0` (R179). -/
theorem expectedError_ne_notConfigured (h : s.rvalid = true) (i : Instr) :
    expectedError i s ≠ some .notConfigured := by
  have hnone : errorIf .notConfigured (s.rvalid = false) = none := if_neg (by rw [h]; decide)
  cases i with
  | nop | vlen | vnot => nofun
  | vnew | vldw | vrdw | vget | vset | vclrb | vflip | vand | vor | alter | fmax => exact errorIf_ne (by decide) _
  | enc | dec | fht | unalter => exact fun hexpected => nomatch hnone.symm.trans hexpected
  | csrr n arg =>
    have hread : errorIf .notConfigured (n = 0x002 ∧ s.rvalid = false) = none := if_neg (by rw [h]; simp)
    rw [expectedError, hread]
    simp [errorIf, Option.orElse_eq_or, Option.or_eq_some_iff]
  | csrw n arg =>
    rw [expectedError]
    simp [errorIf, Option.orElse_eq_or, Option.or_eq_some_iff]
  | frd arg =>
    rw [expectedError]
    split
    · exact errorIf_ne (by decide) _
    · nofun

/-- Settles O18. -/
theorem onlyResetClearsRvalid : Obligations.OnlyResetClearsRvalid := by
  intro s t h hrst hstep
  have hvalid := step_keeps_rvalid h hrst hstep
  exact ⟨hvalid, fun i hraises => expectedError_ne_notConfigured hvalid i (expectedError_of_raises hraises)⟩

end flags

/-! ### The record is informational only (60_exceptions.md section 1) -/

section record
variable {s s' : State}

theorem SameButRecord.sameRegisters (h : SameButRecord s s') : SameRegisters s s' := by
  rw [h]
  exact ⟨rfl, fun n => by cases n <;> rfl, rfl, rfl, rfl⟩

theorem SameButRecord.takeError (h : SameButRecord s s') (e : Error) (b : Beat) :
    SameButRecord (s.takeError e b) (s'.takeError e b) := by
  rw [h]
  rfl

theorem SameButRecord.putResponse (h : SameButRecord s s') (r : Response) :
    SameButRecord (s.putResponse r) (s'.putResponse r) := by
  rw [h]
  rfl

theorem SameButRecord.setV (h : SameButRecord s s') (n : VReg) (x : Vec) :
    SameButRecord (s.setV n x) (s'.setV n x) := by
  rw [h]
  cases n <;> rfl

/-- An update reads nothing of the trap record. -/
theorem SameButRecord.update {i : Instr} {f : State → State} (h : SameButRecord s s') (hf : Update s i f) :
    SameButRecord (f s) (f s') := by
  cases hf with
  | nothing => exact h
  | vector => exact h.setV _ _
  | alter =>
    rw [State.alter, State.alter, h.sameRegisters.v, h.sameRegisters.lfsr, SameButRecord, h.setV]
  | configure | seed | clear | transform | peak =>
    rw [h]
    rfl
  | unalter =>
    refine SameButRecord.setV (s := s.loadPeak _ _ _) (s' := s'.loadPeak _ _ _) ?_ _ _
    rw [h]
    rfl

/-- Settles O17: the two states have the same registers, so the instruction runs alike in both, `exec_alike`. -/
theorem trapRecordInfluencesNothing : Obligations.TrapRecordInfluencesNothing := by
  intro i s s' h hexcept
  have hread (n : BitVec 12) (arg : Word) (c : Csr) (hi : i = .csrr n arg) (hn : Csr.ofNumber n = some c) :
      s'.readCsr c = s.readCsr c := by
    obtain ⟨hstatus, hecmd, hearg⟩ := hexcept n arg hi
    have hnumber := Csr.number_of_ofNumber hn
    refine h.sameRegisters.readCsr ?_ ?_ ?_ <;> rintro rfl
    · exact hstatus hnumber.symm
    · exact hecmd hnumber.symm
    · exact hearg hnumber.symm
  rcases exec_alike h.sameRegisters hread with ⟨e, he, he'⟩ | ⟨d, f, hf, he, he'⟩
  · exact ⟨_, _, he, he', h.takeError e _⟩
  · exact ⟨_, _, he, he', (h.update hf).putResponse _⟩

end record

/-! ### Who writes a register (10_state.md R23, R31, R34) -/

section writes
variable {s : State} {i : Instr} {f : State → State}

theorem Update.v_of_not_written (hf : Update s i f) {n : VReg} (hn : writtenVector i ≠ some n) :
    (f s).v n = s.v n := by
  cases hf with
  | nothing => rfl
  | vector hdest => exact s.v_setV_of_ne _ _ n fun heq => hn (heq ▸ hdest)
  | alter => exact s.alter_sameVectorsExcept _ _ _ n fun heq => hn (heq ▸ rfl)
  | configure => exact s.configure_v _ n
  | seed => exact s.seed_v _ n
  | clear => exact s.clearError_v n
  | transform => exact s.loadTransform_v _ _ n
  | peak => exact s.loadPeak_v _ _ _ n
  | unalter => exact (State.v_setV_of_ne _ _ _ n fun heq => hn (heq ▸ rfl)).trans (s.loadPeak_v _ _ _ n)

theorem Update.lfsr_changed (hf : Update s i f) (h : (f s).lfsr ≠ s.lfsr) :
    (∃ vd va a, i = .alter vd va a) ∨ ∃ a, i = .csrw 0x003 a := by
  cases hf with
  | alter => exact .inl ⟨_, _, _, rfl⟩
  | seed => exact .inr ⟨_, rfl⟩
  | vector | unalter => exact absurd (by simp [State.unalter]) h
  | _ => exact absurd rfl h

theorem Update.flips_changed (hf : Update s i f) (h : (f s).flips ≠ s.flips) : ∃ vd va a, i = .alter vd va a := by
  cases hf with
  | alter => exact ⟨_, _, _, rfl⟩
  | vector | unalter => exact absurd (by simp [State.unalter]) h
  | _ => exact absurd rfl h

/-- Settles O58. -/
theorem onlyNamedCommandsWriteARegister : Obligations.OnlyNamedCommandsWriteARegister := by
  intro i s t hexec
  rcases exec_next hexec with ⟨e, rfl⟩ | ⟨d, f, hf, rfl⟩
  · exact ⟨fun n _ => State.takeError_v _ _ _ n, fun h => absurd rfl h, fun h => absurd rfl h⟩
  · exact ⟨fun n hn => (State.putResponse_v _ _ n).trans (hf.v_of_not_written hn), hf.lfsr_changed, hf.flips_changed⟩

end writes

/-! ### The read commands (20_memory.md R55) -/

/-- The six read commands. -/
def IsRead (i : Instr) : Prop :=
  (∃ va k a, i = .vrdw va k a) ∨ (∃ va a, i = .vlen va a) ∨ (∃ va a, i = .vget va a) ∨ (∃ va a, i = .dec va a) ∨
    (∃ a, i = .frd a) ∨ (∃ n a, i = .csrr n a)

section reads
variable {s s' t : State} {i : Instr}

theorem Update.eq_id_of_isRead {f : State → State} (hf : Update s i f) (hi : IsRead i) : f = id := by
  rcases hi with ⟨_, _, _, rfl⟩ | ⟨_, _, rfl⟩ | ⟨_, _, rfl⟩ | ⟨_, _, rfl⟩ | ⟨_, rfl⟩ | ⟨_, _, rfl⟩
  all_goals
    cases hf with
    | nothing => rfl
    | vector hdest => cases hdest

theorem RunsAlike.response {r : Response} (h : RunsAlike i s s') (hexec : exec i s = .next t) (hrsp : t.rsp = some r) :
    ∃ u, exec i s' = .next u ∧ u.rsp = some r := by
  rcases h with ⟨e, he, he'⟩ | ⟨d, f, -, he, he'⟩
  · obtain rfl := raise_next.mp (he.symm.trans hexec)
    exact ⟨_, he', hrsp⟩
  · obtain rfl := respond_next.mp (he.symm.trans hexec)
    exact ⟨_, he', hrsp⟩

theorem raise_ne_respond {e : Error} {b : Beat} {d : Word} : raise e b s ≠ respond d t := by
  intro h
  have hnext : t.putResponse ⟨.ok, d⟩ = s.takeError e b := raise_next.mp h
  exact nomatch congrArg State.rsp hnext

/-- A read of the trap record never raises, so a raising `CSRR` reads a register that the raise leaves. -/
theorem readCsr_takeError_of_raise {n : BitVec 12} {arg : Word} {c : Csr} {e : Error} (hn : Csr.ofNumber n = some c)
    (h : exec (.csrr n arg) s = raise e (encode (.csrr n arg)) s) (b : Beat) :
    (s.takeError e b).readCsr c = s.readCsr c := by
  have hraises (d : Word) : s.readCsr c ≠ .ok d := fun hr => raise_ne_respond (h.symm.trans (exec_csrr_ok hn hr))
  refine (SameRegisters.takeError e b s).readCsr ?_ ?_ ?_ <;> rintro rfl <;> exact hraises _ rfl

/-- Settles O60: issued again in the state it left, the command finds its registers as before, `exec_alike`. -/
theorem readCommandsChangeNothing : Obligations.ReadCommandsChangeNothing := by
  intro i s hi
  rcases exec_update i s with ⟨e, h⟩ | ⟨d, f, hf, h⟩
  · refine ⟨_, _, h, rfl, rfl, nofun, RunsAlike.response (exec_alike (.takeError e _ s) ?_) h rfl⟩
    rintro n arg c rfl hn
    exact readCsr_takeError_of_raise hn h _
  · obtain rfl := hf.eq_id_of_isRead hi
    refine ⟨_, _, h, rfl, rfl, fun _ => rfl, RunsAlike.response (exec_alike (.putResponse _ s) ?_) h rfl⟩
    intro n arg c _ _
    cases c <;> rfl

end reads

end Sys2Proof.Machine
end

section
/-! PROOF. The code as a linear map (spec/41_codec.md section 1): encoding and exclusive or, and the generator rows. -/

namespace Sys2Proof.Machine

/-! ### Linearity (R115 (a)) -/

theorem xorBelow_xor (n : Nat) (c d : Nat → Bool) :
    xorBelow n (fun j => xor (c j) (d j)) = xor (xorBelow n c) (xorBelow n d) := by
  induction n with
  | zero => rfl
  | succ n ih => simp only [xorBelow, ih, Bool.xor_assoc, Bool.xor_left_comm]

theorem codewordBit_xor (r a b i : Nat) :
    codewordBit r (a ^^^ b) i = xor (codewordBit r a i) (codewordBit r b i) := by
  have hterms : xorBelow r (fun j => i.testBit j && (a ^^^ b).testBit j) =
      xor (xorBelow r fun j => i.testBit j && a.testBit j) (xorBelow r fun j => i.testBit j && b.testBit j) := by
    rw [← xorBelow_xor]
    exact xorBelow_congr fun j _ => by rw [Nat.testBit_xor, Bool.and_xor_distrib_left]
  rw [codewordBit, codewordBit, codewordBit, hterms, Nat.testBit_xor]
  simp only [Bool.xor_assoc, Bool.xor_left_comm]

theorem rmEncode_xor (r a b : Nat) : rmEncode r (a ^^^ b) = rmEncode r a ^^^ rmEncode r b := by
  refine Nat.eq_of_testBit_eq fun i => ?_
  rw [Nat.testBit_xor, testBit_rmEncode, testBit_rmEncode, testBit_rmEncode, codewordBit_xor,
    Bool.and_xor_distrib_left]

/-- Settles O36. -/
theorem encodeIsLinear : Obligations.EncodeIsLinear := rmEncode_xor

/-- Only the low r+1 bits of a number are its message (R114 (a)). -/
theorem rmEncode_mod (r m : Nat) : rmEncode r (m % 2 ^ (r + 1)) = rmEncode r m := by
  refine ofBits_congr fun i _ => ?_
  have hbit (j : Nat) (hj : j < r + 1) : (m % 2 ^ (r + 1)).testBit j = m.testBit j := by
    rw [Nat.testBit_mod_two_pow, decide_eq_true hj, Bool.true_and]
  rw [codewordBit, codewordBit, hbit r (Nat.lt_succ_self r)]
  exact congrArg _ (xorBelow_congr fun j hj => by rw [hbit j (Nat.lt_succ_of_lt hj)])

@[simp] theorem rmEncode_zero (r : Nat) : rmEncode r 0 = 0 :=
  calc rmEncode r 0 = rmEncode r (0 ^^^ 0) := by rw [Nat.xor_self]
    _ = 0 := by rw [rmEncode_xor, Nat.xor_self]

/-! ### The generator rows (R112) -/

/-- The row of the constant term. -/
theorem rmEncode_two_pow_self (r : Nat) : rmEncode r (2 ^ r) = 2 ^ 2 ^ r - 1 := by
  refine Nat.eq_of_testBit_eq fun i => ?_
  have hlinear : xorBelow r (fun j => i.testBit j && (2 ^ r).testBit j) = false :=
    xorBelow_eq_false fun j hj => by rw [Nat.testBit_two_pow_of_ne (Nat.ne_of_gt hj), Bool.and_false]
  rw [testBit_rmEncode, codewordBit, hlinear, Nat.testBit_two_pow_self, Nat.testBit_two_pow_sub_one, Bool.xor_false,
    Bool.and_true]

/-- The row of a linear term. -/
theorem testBit_rmEncode_two_pow {r i j : Nat} (hj : j < r) (hi : i < 2 ^ r) :
    (rmEncode r (2 ^ j)).testBit i = i.testBit j := by
  have hsingle : xorBelow r (fun k => i.testBit k && (2 ^ j).testBit k) = (i.testBit j && (2 ^ j).testBit j) :=
    xorBelow_eq_single hj fun k _ hk => by rw [Nat.testBit_two_pow_of_ne (Ne.symm hk), Bool.and_false]
  rw [testBit_rmEncode, codewordBit, hsingle, Nat.testBit_two_pow_self, Nat.testBit_two_pow_of_ne (Nat.ne_of_lt hj),
    decide_eq_true hi, Bool.true_and, Bool.false_xor, Bool.and_true]

/-- One more bit of a number. -/
theorem mod_two_pow_succ_eq_xor (m n : Nat) :
    m % 2 ^ (n + 1) = if m.testBit n then m % 2 ^ n ^^^ 2 ^ n else m % 2 ^ n := by
  refine Nat.eq_of_testBit_eq fun i => ?_
  have hlt : i < n + 1 ↔ i < n ∨ i = n := Nat.lt_succ_iff_lt_or_eq
  split
  · next h =>
    rw [testBit_flipBit, Nat.testBit_mod_two_pow, Nat.testBit_mod_two_pow]
    by_cases hi : i = n <;> simp [hi, h, hlt]
  · next h =>
    rw [Nat.testBit_mod_two_pow, Nat.testBit_mod_two_pow]
    by_cases hi : i = n <;> simp [hi, h, hlt]

/-- The rows the low `n` bits of a message select sum to their codeword: by induction on `n`. -/
theorem foldl_rows_eq_rmEncode (r m n : Nat) :
    (List.range n).foldl (fun x j => if m.testBit j then x ^^^ rmEncode r (2 ^ j) else x) 0 =
      rmEncode r (m % 2 ^ n) := by
  induction n with
  | zero => rw [List.range_zero, List.foldl_nil, Nat.pow_zero, Nat.mod_one, rmEncode_zero]
  | succ n ih =>
    rw [List.range_succ, List.foldl_append, ih, List.foldl_cons, List.foldl_nil, mod_two_pow_succ_eq_xor]
    split
    · rw [rmEncode_xor]
    · rfl

/-- Settles O35. -/
theorem encodeIsXorOfGeneratorRows : Obligations.EncodeIsXorOfGeneratorRows := by
  intro r
  refine ⟨rmEncode_two_pow_self r, fun j hj i hi => testBit_rmEncode_two_pow hj hi, fun m => ?_⟩
  rw [foldl_rows_eq_rmEncode, rmEncode_mod]

end Sys2Proof.Machine
end

section
/-! PROOF. The noise channel's laws (spec/42_noise.md section 2): the LFSR step and its inverse, the extreme thresholds,
and how the flips of two thresholds compare. -/

namespace Sys2Proof.Machine

/-! ### The LFSR step (R132) -/

/-- The word with `y`'s bits moved up by one and `b` below them. -/
def shiftIn (y : Word) (b : Bool) : Word := BitVec.ofNat 32 (y.toNat * 2 + b.toNat)

/-- The inverse of the step, as R132 states it. -/
def lfsrInverse (w : Word) : Word :=
  if w.getLsbD 31 then BitVec.ofNat 32 ((w ^^^ 0x80200003).toNat * 2 + 1) else BitVec.ofNat 32 (w.toNat * 2)

section lfsr
variable {w y : Word} {b : Bool}

theorem toNat_mod_two (w : Word) : w.toNat % 2 = (w.getLsbD 0).toNat := by
  rw [BitVec.getLsbD, Nat.testBit_zero]
  rcases Nat.mod_two_eq_zero_or_one w.toNat with h | h <;> rw [h] <;> rfl

theorem toNat_shiftRight_one (w : Word) : (w >>> 1).toNat = w.toNat / 2 := by
  rw [BitVec.toNat_ushiftRight, Nat.shiftRight_eq_div_pow, Nat.pow_one]

/-- Shifting out the low bit and shifting it in again. -/
theorem shiftIn_shiftRight (w : Word) : shiftIn (w >>> 1) (w.getLsbD 0) = w := by
  have hdiv := Nat.div_add_mod' w.toNat 2
  rw [shiftIn, toNat_shiftRight_one, ← toNat_mod_two, hdiv, BitVec.ofNat_toNat, BitVec.setWidth_eq]

theorem toNat_shiftIn (h : y.getLsbD 31 = false) : (shiftIn y b).toNat = y.toNat * 2 + b.toNat := by
  have hlt : y.toNat < 2147483648 := by
    have hbit : y.toNat / 2 ^ 31 % 2 ≠ 1 := by
      rw [BitVec.getLsbD, Nat.testBit_eq_decide_div_mod_eq] at h
      exact of_decide_eq_false h
    have hbound := y.isLt
    omega
  have hb := b.toNat_le
  rw [shiftIn, BitVec.toNat_ofNat]
  omega

theorem shiftIn_shiftRight_one (h : y.getLsbD 31 = false) : shiftIn y b >>> 1 = y := by
  refine BitVec.eq_of_toNat_eq ?_
  have hb := b.toNat_le
  rw [toNat_shiftRight_one, toNat_shiftIn h]
  omega

theorem shiftIn_getLsbD_zero (h : y.getLsbD 31 = false) : (shiftIn y b).getLsbD 0 = b := by
  have hmod := toNat_mod_two (shiftIn y b)
  rw [toNat_shiftIn h] at hmod
  have hb := b.toNat_le
  exact Function.LeftInverse.injective Bool.ofNat_toNat (by omega)

/-- The step as a sum over exclusive or: the shifted word, and the mask where a 1 was shifted out. -/
theorem lfsrStep_eq_xor (w : Word) : lfsrStep w = w >>> 1 ^^^ if w.getLsbD 0 then lfsrMask else 0#32 := by
  cases h : w.getLsbD 0 with
  | false => rw [lfsrStep_of_even h, if_neg Bool.false_ne_true, BitVec.xor_zero]
  | true => rw [lfsrStep_of_odd h, if_pos rfl]

/-- Bit 31 of the new word is the bit shifted out: it is bit 31 of the mask. -/
theorem getLsbD_lfsrStep_top (w : Word) : (lfsrStep w).getLsbD 31 = w.getLsbD 0 := by
  have htop : (w >>> 1).getLsbD 31 = false := by simp
  rw [lfsrStep_eq_xor, BitVec.getLsbD_xor, htop, Bool.false_xor]
  cases w.getLsbD 0 <;> rfl

theorem lfsrInverse_eq_shiftIn (w : Word) :
    lfsrInverse w = shiftIn (w ^^^ if w.getLsbD 31 then lfsrMask else 0#32) (w.getLsbD 31) := by
  cases h : w.getLsbD 31 with
  | false => rw [lfsrInverse, if_neg (Bool.eq_false_iff.mp h), if_neg Bool.false_ne_true, BitVec.xor_zero]; rfl
  | true => rw [lfsrInverse, if_pos h, if_pos rfl]; rfl

theorem lfsrInverse_lfsrStep (w : Word) : lfsrInverse (lfsrStep w) = w := by
  rw [lfsrInverse_eq_shiftIn, getLsbD_lfsrStep_top, lfsrStep_eq_xor, BitVec.xor_assoc, BitVec.xor_self,
    BitVec.xor_zero, shiftIn_shiftRight]

theorem lfsrStep_lfsrInverse (w : Word) : lfsrStep (lfsrInverse w) = w := by
  have htop : (w ^^^ if w.getLsbD 31 then lfsrMask else 0#32).getLsbD 31 = false := by
    rw [BitVec.getLsbD_xor]
    cases w.getLsbD 31 <;> rfl
  rw [lfsrInverse_eq_shiftIn, lfsrStep_eq_xor, shiftIn_shiftRight_one htop, shiftIn_getLsbD_zero htop,
    BitVec.xor_assoc, BitVec.xor_self, BitVec.xor_zero]

theorem lfsrStep_xor (w w' : Word) : lfsrStep (w ^^^ w') = lfsrStep w ^^^ lfsrStep w' := by
  have hmask (b b' : Bool) : (if xor b b' then lfsrMask else 0#32) =
      (if b then lfsrMask else 0#32) ^^^ if b' then lfsrMask else 0#32 := by cases b <;> cases b' <;> rfl
  rw [lfsrStep_eq_xor, lfsrStep_eq_xor, lfsrStep_eq_xor, BitVec.getLsbD_xor, hmask, BitVec.ushiftRight_xor_distrib]
  ac_rfl

end lfsr

/-- Settles O41. -/
theorem lfsrStepIsALinearBijection : Obligations.LfsrStepIsALinearBijection :=
  ⟨rfl, fun w => ⟨lfsrInverse_lfsrStep w, lfsrStep_lfsrInverse w⟩, lfsrStep_xor, fun _ => lfsrStep_ne_zero⟩

/-! ### Thresholds (R135) -/

/-- A sample has 16 bits (R133). -/
theorem noiseSample_lt (w : Word) (i : Nat) : noiseSample w i < 65536 := Nat.mod_lt _ (by decide)

/-- No sample is below 0. -/
theorem channel_zero_out (len : Nat) (c : Channel) : (channel 0 len c).out = c.out := by
  refine Nat.eq_of_testBit_eq fun i => ?_
  rw [testBit_channel_out, decide_eq_false fun h => Nat.not_lt_zero _ h.2, Bool.xor_false]

/-- Every sample is below 65536. -/
theorem channel_full_out {len : Nat} {c : Channel} (h : c.out < 2 ^ len) :
    (channel 65536 len c).out = 2 ^ len - 1 - c.out := by
  refine Nat.eq_of_testBit_eq fun i => ?_
  have hcompl := testBit_complementVec (x := ⟨len, c.out⟩) h i
  rw [complementVec] at hcompl
  rw [hcompl, testBit_channel_out]
  by_cases hi : i < len
  · simp [hi, noiseSample_lt]
  · have hbit : c.out.testBit i = false :=
      Nat.testBit_lt_two_pow (h.trans_le (Nat.pow_le_pow_right (by decide) (Nat.not_lt.mp hi)))
    simp [hi, hbit]

/-- The positions whose sample is below the threshold, counted as a set. -/
theorem countP_range_eq_card (n : Nat) (p : Nat → Prop) [DecidablePred p] :
    (List.range n).countP (fun i => decide (p i)) = ((Finset.range n).filter p).card := by
  rw [List.countP_eq_length_filter]
  rfl

section thresholds
variable {s : State} {vd va : VReg} {threshold : Nat}

/-- A register within the largest legal capacity counts its flips whole. -/
theorem State.toNat_alter_flips (hlen : (s.v va).len ≤ 65536) :
    (s.alter vd va threshold).flips.toNat =
      (List.range (s.v va).len).countP fun i => decide (noiseSample s.lfsr i < threshold) := by
  have hcount := List.countP_le_length (p := fun i => decide (noiseSample s.lfsr i < threshold))
    (l := List.range (s.v va).len)
  rw [List.length_range] at hcount
  rw [State.alter_flips]
  exact toNat_zext32 (by omega)

/-- Bit `i` of the result differs from the source's exactly when it is flipped. -/
theorem State.testBit_alter_ne_iff (s : State) (vd va : VReg) (threshold i : Nat) :
    ((s.alter vd va threshold).v vd).val.testBit i ≠ (s.v va).val.testBit i ↔
      i < (s.v va).len ∧ noiseSample s.lfsr i < threshold := by
  rw [State.alter_v_same, testBit_channel_out]
  by_cases h : i < (s.v va).len ∧ noiseSample s.lfsr i < threshold <;> simp [h]

/-- `FLIPS` is the distance of source and result (R135 (d)). -/
theorem State.alter_flips_eq_hammingDistance (hlen : (s.v va).len ≤ 65536) :
    (s.alter vd va threshold).flips.toNat =
      hammingDistance (s.v va).len (s.v va).val ((s.alter vd va threshold).v vd).val := by
  rw [State.toNat_alter_flips hlen, countP_range_eq_card, hammingDistance]
  refine congrArg Finset.card (Finset.filter_congr fun i hi => ?_)
  rw [ne_comm, State.testBit_alter_ne_iff]
  exact (and_iff_right (Finset.mem_range.mp hi)).symm

end thresholds

/-- Settles O42. -/
theorem alterAtTheExtremes : Obligations.AlterAtTheExtremes := by
  intro vd va s hlen hval
  refine ⟨⟨_, exec_alter_ok (arg := 0) (Nat.zero_le _), ?_, ?_⟩,
    ⟨_, exec_alter_ok (arg := 65536) (by decide), ?_, ?_⟩⟩
  · rw [State.putResponse_v, State.alter_v_same]
    exact congrArg (Vec.mk _) (channel_zero_out _ _)
  · rw [State.putResponse_flips, State.alter_flips, List.countP_eq_zero.mpr fun i _ => by simp]
    rfl
  · rw [State.putResponse_v, State.alter_v_same]
    exact congrArg (Vec.mk _) (channel_full_out hval)
  · have hall (i : Nat) (_ : i ∈ List.range (s.v va).len) :
        decide (noiseSample s.lfsr i < (65536 : Word).toNat) = true := decide_eq_true (noiseSample_lt _ _)
    rw [State.putResponse_flips, State.toNat_alter_flips hlen, List.countP_eq_length.mpr hall, List.length_range]

/-- Settles O43: a flip is a sample below the threshold, `State.testBit_alter_ne_iff`. -/
theorem alterFlipsAreCountedAndMonotone : Obligations.AlterFlipsAreCountedAndMonotone := by
  intro vd va a b s hlen hab hb
  refine ⟨_, _, exec_alter_ok (hab.trans hb), exec_alter_ok hb, ?_, fun i => ?_, ?_⟩
  · rw [State.putResponse_flips, State.putResponse_v, State.alter_flips_eq_hammingDistance hlen]
  · rw [State.putResponse_v, State.putResponse_v, State.testBit_alter_ne_iff, State.testBit_alter_ne_iff]
    exact fun ⟨hi, hsample⟩ => ⟨hi, hsample.trans_le hab⟩
  · rw [State.putResponse_lfsr, State.putResponse_lfsr, State.alter_lfsr, State.alter_lfsr]

end Sys2Proof.Machine
end

section
/-! PROOF. The transform (spec/43_hadamard.md section 1): the butterfly rounds compute the Walsh sum, the sum splits by
halves and keeps the energy, and its entries are distances to codewords. -/

namespace Sys2Proof.Machine

/-! ### Signs (R141) -/

/-- The sign of position `i` in coefficient `k`, by their low `n` bits. -/
def walshSign (n k i : Nat) : Int := (-1) ^ onesBelow n (k &&& i)

theorem onesBelow_succ (n v : Nat) : onesBelow (n + 1) v = onesBelow n v + (v.testBit n).toNat := by
  rw [onesBelow, Finset.range_add_one, Finset.filter_insert]
  split
  · next h => rw [Finset.card_insert_of_notMem (by simp), h]; rfl
  · next h => rw [eq_false_of_ne_true h]; rfl

@[simp] theorem walshSign_zero (k i : Nat) : walshSign 0 k i = 1 := rfl

theorem walshSign_succ (n k i : Nat) :
    walshSign (n + 1) k i = (if k.testBit n && i.testBit n then -1 else 1) * walshSign n k i := by
  rw [walshSign, onesBelow_succ, pow_add, mul_comm, Nat.testBit_and]
  cases k.testBit n && i.testBit n <;> rfl

theorem walshSign_comm (n k i : Nat) : walshSign n k i = walshSign n i k := by
  rw [walshSign, Nat.and_comm, walshSign]

theorem walshSign_congr {n k k' : Nat} (h : ∀ j, j < n → k.testBit j = k'.testBit j) (i : Nat) :
    walshSign n k i = walshSign n k' i := by
  induction n with
  | zero => rfl
  | succ n ih =>
    rw [walshSign_succ, walshSign_succ, ih fun j hj => h j (Nat.lt_succ_of_lt hj), h n (Nat.lt_succ_self n)]

/-- Only the low bits count. -/
theorem walshSign_two_pow_add (n k i : Nat) : walshSign n (2 ^ n + k) i = walshSign n k i :=
  walshSign_congr (fun _ hj => Nat.testBit_two_pow_add_gt hj k) i

section halves
variable {n k i : Nat}

theorem walshSign_succ_low (hk : k < 2 ^ n) : walshSign (n + 1) k i = walshSign n k i := by
  rw [walshSign_succ, Nat.testBit_lt_two_pow hk, Bool.false_and, if_neg Bool.false_ne_true, one_mul]

theorem walshSign_succ_low_high (hk : k < 2 ^ n) : walshSign (n + 1) k (2 ^ n + i) = walshSign n k i := by
  rw [walshSign_succ_low hk, walshSign_comm, walshSign_two_pow_add, walshSign_comm]

theorem walshSign_succ_high_low (hi : i < 2 ^ n) : walshSign (n + 1) (2 ^ n + k) i = walshSign n k i := by
  rw [walshSign_comm, walshSign_succ_low_high hi, walshSign_comm]

theorem walshSign_succ_high_high (hk : k < 2 ^ n) (hi : i < 2 ^ n) :
    walshSign (n + 1) (2 ^ n + k) (2 ^ n + i) = -walshSign n k i := by
  have htop {j : Nat} (hj : j < 2 ^ n) : (2 ^ n + j).testBit n = true := by
    rw [Nat.testBit_two_pow_add_eq, Nat.testBit_lt_two_pow hj, Bool.not_false]
  rw [walshSign_succ, htop hk, htop hi, Bool.and_self, if_pos rfl, walshSign_two_pow_add, walshSign_comm,
    walshSign_two_pow_add, walshSign_comm, neg_one_mul]

end halves

theorem natCast_two_pow (n : Nat) : ((2 ^ n : Nat) : Int) = 2 ^ n := Nat.cast_pow 2 n

/-- A sum over 2^(n+1) positions is the sums over the two halves. -/
theorem sum_range_two_pow_succ (n : Nat) (g : Nat → Int) :
    ∑ i ∈ Finset.range (2 ^ (n + 1)), g i =
      ∑ i ∈ Finset.range (2 ^ n), g i + ∑ i ∈ Finset.range (2 ^ n), g (2 ^ n + i) := by
  rw [Nat.pow_succ, Nat.mul_two, Finset.sum_range_add]

/-! ### The butterfly rounds (R141 step 2) -/

section rounds
variable {n q i k : Nat} {F : List Int}

/-- The first half of a block of 2^(n+1) entries gets the sums. -/
theorem getD_butterfly_even (hi : i < 2 ^ n) (hlen : 2 ^ n * (2 * q) + i < F.length) :
    (butterfly n F).getD (2 ^ n * (2 * q) + i) 0 =
      F.getD (2 ^ n * (2 * q) + i) 0 + F.getD (2 ^ n * (2 * q) + (2 ^ n + i)) 0 := by
  have hbit : (2 ^ n * (2 * q) + i).testBit n = false := by
    rw [Nat.testBit_two_pow_mul_add _ hi, if_neg (Nat.lt_irrefl n), Nat.sub_self, Nat.testBit_zero,
      Nat.mul_mod_right]
    rfl
  rw [getD_butterfly n hlen, hbit, if_neg Bool.false_ne_true, Nat.add_assoc, Nat.add_comm i]

/-- The second half gets the differences. -/
theorem getD_butterfly_odd (hi : i < 2 ^ n) (hlen : 2 ^ n * (2 * q + 1) + i < F.length) :
    (butterfly n F).getD (2 ^ n * (2 * q + 1) + i) 0 =
      F.getD (2 ^ n * (2 * q) + i) 0 - F.getD (2 ^ n * (2 * q) + (2 ^ n + i)) 0 := by
  have hbit : (2 ^ n * (2 * q + 1) + i).testBit n = true := by
    rw [Nat.testBit_two_pow_mul_add _ hi, if_neg (Nat.lt_irrefl n), Nat.sub_self, Nat.testBit_zero,
      Nat.mul_add_mod]
    rfl
  have hindex : 2 ^ n * (2 * q + 1) + i = 2 ^ n * (2 * q) + (2 ^ n + i) := by ring
  have hpartner : 2 ^ n * (2 * q + 1) + i - 2 ^ n = 2 ^ n * (2 * q) + i := by omega
  rw [getD_butterfly n hlen, hbit, if_pos rfl, hpartner, hindex]

/-- The rounds below `n` transform every block of 2^n entries by itself: by induction on the rounds, the block `q` of
the first round being the blocks `2q` and `2q + 1` of the rest. -/
theorem getD_butterflies (hlen : 2 ^ n * (q + 1) ≤ F.length) (hk : k < 2 ^ n) :
    (butterflies n F).getD (2 ^ n * q + k) 0 =
      ∑ i ∈ Finset.range (2 ^ n), F.getD (2 ^ n * q + i) 0 * walshSign n k i := by
  induction n generalizing F q k with
  | zero =>
    obtain rfl : k = 0 := by simpa using hk
    simp [butterflies]
  | succ n ih =>
    have hblock : 2 ^ (n + 1) * (q + 1) = 2 ^ n * (2 * q + 1 + 1) := by ring
    have hbase : 2 ^ (n + 1) * q = 2 ^ n * (2 * q) := by ring
    have hlenOdd : 2 ^ n * (2 * q + 1 + 1) ≤ (butterfly n F).length := by rwa [length_butterfly, ← hblock]
    have hlenEven : 2 ^ n * (2 * q + 1) ≤ (butterfly n F).length :=
      (Nat.mul_le_mul_left _ (Nat.le_succ _)).trans hlenOdd
    have hstepEven : 2 ^ n * (2 * q + 1) = 2 ^ n * (2 * q) + 2 ^ n := Nat.mul_succ _ _
    have hstepOdd : 2 ^ n * (2 * q + 1 + 1) = 2 ^ n * (2 * q + 1) + 2 ^ n := Nat.mul_succ _ _
    rw [butterflies, sum_range_two_pow_succ, hbase, ← Finset.sum_add_distrib]
    rw [length_butterfly] at hlenEven hlenOdd
    rcases Nat.lt_or_ge k (2 ^ n) with hlow | hhigh
    · rw [ih (by rwa [length_butterfly]) hlow]
      refine Finset.sum_congr rfl fun i hi => ?_
      have hi := Finset.mem_range.mp hi
      rw [getD_butterfly_even hi (by omega), walshSign_succ_low hlow, walshSign_succ_low_high hlow]
      ring
    · obtain ⟨k, rfl⟩ := Nat.exists_eq_add_of_le hhigh
      have hk' : k < 2 ^ n := by omega
      rw [← Nat.add_assoc, ← hstepEven, ih (by rwa [length_butterfly]) hk']
      refine Finset.sum_congr rfl fun i hi => ?_
      have hi := Finset.mem_range.mp hi
      rw [getD_butterfly_odd hi (by omega), walshSign_succ_high_low hi, walshSign_succ_high_high hk' hi]
      ring

end rounds

/-- The closed form, with the sign named. -/
theorem walshSum_eq (r c k : Nat) :
    walshSum r c k = ∑ i ∈ Finset.range (2 ^ r), (1 - 2 * ((c.testBit i).toNat : Int)) * walshSign r k i := rfl

theorem getD_wht {r k : Nat} (c : Nat) (hk : k < 2 ^ r) : (wht r c).getD k 0 = walshSum r c k := by
  have hblock := getD_butterflies (q := 0) (F := antipodal r c) (by simp) hk
  simp only [Nat.mul_zero, Nat.zero_add] at hblock
  rw [wht, hblock, walshSum_eq]
  exact Finset.sum_congr rfl fun i hi => by rw [getD_antipodal c (Finset.mem_range.mp hi)]

/-- Settles O48: the block of all 2^r entries, `getD_butterflies`, over the antipodal list. -/
theorem transformIsTheWalshSum : Obligations.TransformIsTheWalshSum := fun _ c _ hk => getD_wht c hk

/-- The whole list. -/
theorem wht_eq_map (r c : Nat) : wht r c = (List.range (2 ^ r)).map (walshSum r c) := by
  refine List.ext_getElem (by simp) fun k hk _ => ?_
  have hk' : k < 2 ^ r := length_wht r c ▸ hk
  rw [← List.getD_eq_getElem _ 0 hk, getD_wht c hk', List.getElem_map, List.getElem_range]

/-! ### The halves (section 4) -/

section split
variable {r k : Nat} (c : Nat)

theorem testBit_high_half (r c i : Nat) : (c / 2 ^ 2 ^ r).testBit i = c.testBit (2 ^ r + i) := by
  rw [Nat.testBit_div_two_pow, Nat.add_comm]

theorem walshSum_succ_low (hk : k < 2 ^ r) :
    walshSum (r + 1) c k = walshSum r c k + walshSum r (c / 2 ^ 2 ^ r) k := by
  rw [walshSum_eq, sum_range_two_pow_succ, walshSum_eq, walshSum_eq]
  congr 1 <;> refine Finset.sum_congr rfl fun i _ => ?_
  · rw [walshSign_succ_low hk]
  · rw [walshSign_succ_low_high hk, testBit_high_half]

theorem walshSum_succ_high (hk : k < 2 ^ r) :
    walshSum (r + 1) c (2 ^ r + k) = walshSum r c k - walshSum r (c / 2 ^ 2 ^ r) k := by
  rw [walshSum_eq, sum_range_two_pow_succ, walshSum_eq, walshSum_eq, sub_eq_add_neg, ← Finset.sum_neg_distrib]
  congr 1 <;> refine Finset.sum_congr rfl fun i hi => ?_
  · rw [walshSign_succ_high_low (Finset.mem_range.mp hi)]
  · rw [walshSign_succ_high_high hk (Finset.mem_range.mp hi), testBit_high_half, mul_neg]

end split

theorem zipWith_map_map (f : Int → Int → Int) (g h : Nat → Int) (l : List Nat) :
    List.zipWith f (l.map g) (l.map h) = l.map fun k => f (g k) (h k) := by
  rw [List.zipWith_map, List.zipWith_self]

theorem wht_succ (r c : Nat) :
    wht (r + 1) c =
      List.zipWith (fun x y => x + y) (wht r c) (wht r (c / 2 ^ 2 ^ r)) ++
      List.zipWith (fun x y => x - y) (wht r c) (wht r (c / 2 ^ 2 ^ r)) := by
  simp only [wht_eq_map, zipWith_map_map]
  rw [Nat.pow_succ, Nat.mul_two, List.range_add, List.map_append, List.map_map]
  congr 1 <;> refine List.map_congr_left fun k hk => ?_
  · exact walshSum_succ_low c (List.mem_range.mp hk)
  · exact walshSum_succ_high c (List.mem_range.mp hk)

/-- Settles O52: the Walsh sum splits by the top bit of the position, with a sign for the top bit of the index. -/
theorem transformSplitsIntoHalves : Obligations.TransformSplitsIntoHalves := wht_succ

/-! ### The energy (R142 (d)) -/

/-- The squares of a list, summed. -/
def energy (F : List Int) : Int := (F.map fun x => x ^ 2).sum

/-- The parallelogram law, entry by entry. -/
theorem energy_sum_add_energy_difference {F G : List Int} (h : F.length = G.length) :
    energy (List.zipWith (fun x y => x + y) F G) + energy (List.zipWith (fun x y => x - y) F G) =
      2 * energy F + 2 * energy G := by
  induction F generalizing G with
  | nil =>
    obtain rfl := List.length_eq_zero_iff.mp h.symm
    rfl
  | cons x F ih =>
    cases G with
    | nil => cases h
    | cons y G =>
      have htail := ih (Nat.succ.inj h)
      simp only [energy, List.zipWith_cons_cons, List.map_cons, List.sum_cons] at htail ⊢
      linear_combination htail

theorem energy_wht (r c : Nat) : energy (wht r c) = 4 ^ r := by
  induction r generalizing c with
  | zero => cases h : c.testBit 0 <;> simp [energy, wht, butterflies, antipodal, h]
  | succ r ih =>
    have hlaw := energy_sum_add_energy_difference (F := wht r c) (G := wht r (c / 2 ^ 2 ^ r)) (by simp)
    rw [ih, ih] at hlaw
    rw [wht_succ, energy, List.map_append, List.sum_append]
    rw [energy, energy] at hlaw
    rw [hlaw]
    ring

/-- Settles O50: by induction on `r`, with `wht_succ` and the parallelogram law. -/
theorem transformKeepsTheEnergy : Obligations.TransformKeepsTheEnergy := energy_wht

/-- A coefficient of full magnitude has all the energy. -/
theorem getD_wht_eq_zero_of_full {r c k j : Nat} (hk : k < 2 ^ r) (hj : j < 2 ^ r) (hjk : j ≠ k)
    (hfull : ((wht r c).getD k 0).natAbs = 2 ^ r) : (wht r c).getD j 0 = 0 := by
  have hsum : ∑ i ∈ Finset.range (2 ^ r), walshSum r c i ^ 2 = 4 ^ r := by
    rw [← energy_wht r c, wht_eq_map, energy, List.map_map]
    rfl
  have hsquare : walshSum r c k ^ 2 = 4 ^ r := by
    rw [← getD_wht c hk, ← Int.natAbs_sq, hfull]
    push_cast
    rw [← pow_mul, mul_comm, pow_mul]
    norm_num
  rw [← Finset.add_sum_erase _ _ (Finset.mem_range.mpr hk), hsquare] at hsum
  have hrest : ∑ i ∈ (Finset.range (2 ^ r)).erase k, walshSum r c i ^ 2 = 0 := by linarith only [hsum]
  have hzero := (Finset.sum_eq_zero_iff_of_nonneg fun i _ => sq_nonneg _).mp hrest j
    (Finset.mem_erase.mpr ⟨hjk, Finset.mem_range.mpr hj⟩)
  rw [getD_wht c hj]
  exact (pow_eq_zero_iff two_ne_zero).mp hzero

/-! ### The Hamming distance (00_scope.md R11) -/

section distance
variable {n a b c : Nat}

theorem hammingDistance_succ (n a b : Nat) :
    hammingDistance (n + 1) a b = hammingDistance n a b + if a.testBit n ≠ b.testBit n then 1 else 0 := by
  rw [hammingDistance, Finset.range_add_one, Finset.filter_insert]
  split
  · rw [Finset.card_insert_of_notMem (by simp)]
    rfl
  · rfl

theorem hammingDistance_le (n a b : Nat) : hammingDistance n a b ≤ n :=
  (Finset.card_filter_le _ _).trans_eq (Finset.card_range n)

theorem hammingDistance_self (n a : Nat) : hammingDistance n a a = 0 := by
  simp [hammingDistance]

theorem hammingDistance_comm (n a b : Nat) : hammingDistance n a b = hammingDistance n b a := by
  simp only [hammingDistance, ne_comm]

theorem hammingDistance_triangle (n a b c : Nat) :
    hammingDistance n a b ≤ hammingDistance n a c + hammingDistance n c b := by
  induction n with
  | zero => exact Nat.zero_le _
  | succ n ih =>
    rw [hammingDistance_succ, hammingDistance_succ, hammingDistance_succ]
    have hbit : (if a.testBit n ≠ b.testBit n then 1 else 0) ≤
        (if a.testBit n ≠ c.testBit n then 1 else 0) + if c.testBit n ≠ b.testBit n then 1 else 0 := by
      cases a.testBit n <;> cases b.testBit n <;> cases c.testBit n <;> decide
    omega

theorem hammingDistance_congr {a' : Nat} (h : ∀ i, i < n → a.testBit i = a'.testBit i) :
    hammingDistance n a b = hammingDistance n a' b :=
  congrArg Finset.card (Finset.filter_congr fun i hi => by rw [h i (Finset.mem_range.mp hi)])

/-- Words of `n` bits at distance 0 are equal. -/
theorem hammingDistance_eq_zero_iff (ha : a < 2 ^ n) (hb : b < 2 ^ n) : hammingDistance n a b = 0 ↔ a = b := by
  rw [hammingDistance, Finset.card_eq_zero, Finset.filter_eq_empty_iff]
  refine ⟨fun h => Nat.eq_of_testBit_eq fun i => ?_, fun h i _ => by rw [h]; exact fun hne => hne rfl⟩
  rcases Nat.lt_or_ge i n with hi | hi
  · exact Decidable.not_not.mp (h (Finset.mem_range.mpr hi))
  · have hpow : 2 ^ n ≤ 2 ^ i := Nat.pow_le_pow_right (by decide) hi
    rw [Nat.testBit_lt_two_pow (ha.trans_le hpow), Nat.testBit_lt_two_pow (hb.trans_le hpow)]

/-- The antipodal words agree at `n - d` places and differ at `d` (R142). -/
theorem sum_antipodal_mul (n a b : Nat) :
    ∑ i ∈ Finset.range n, (1 - 2 * ((a.testBit i).toNat : Int)) * (1 - 2 * ((b.testBit i).toNat : Int)) =
      n - 2 * (hammingDistance n a b : Int) := by
  induction n with
  | zero => rfl
  | succ n ih =>
    rw [Finset.sum_range_succ, ih, hammingDistance_succ]
    cases a.testBit n <;> cases b.testBit n <;> simp <;> ring

theorem hammingDistance_compl (n a b : Nat) :
    hammingDistance n a (b ^^^ (2 ^ n - 1)) + hammingDistance n a b = n := by
  have hflip (i : Nat) (hi : i ∈ Finset.range n) :
      a.testBit i ≠ (b ^^^ (2 ^ n - 1)).testBit i ↔ ¬ a.testBit i ≠ b.testBit i := by
    rw [Nat.testBit_xor, Nat.testBit_two_pow_sub_one, decide_eq_true (Finset.mem_range.mp hi)]
    cases a.testBit i <;> cases b.testBit i <;> decide
  rw [hammingDistance, Finset.filter_congr hflip, hammingDistance, Nat.add_comm,
    Finset.card_filter_add_card_filter_not, Finset.card_range]

end distance

/-! ### Coefficients as distances (R142) -/

section coefficients
variable {r k : Nat}

/-- The sign of position `i` in coefficient `k` is the antipodal bit of the codeword of `k`. -/
theorem walshSign_eq_xorBelow (n k i : Nat) :
    walshSign n k i = 1 - 2 * ((xorBelow n fun j => i.testBit j && k.testBit j).toNat : Int) := by
  induction n with
  | zero => rfl
  | succ n ih =>
    rw [walshSign_succ, ih, xorBelow, Bool.and_comm]
    cases xorBelow n fun j => i.testBit j && k.testBit j <;> cases i.testBit n && k.testBit n <;> rfl

theorem walshSign_eq_antipodal {i : Nat} (hk : k < 2 ^ r) (hi : i < 2 ^ r) :
    walshSign r k i = 1 - 2 * (((rmEncode r k).testBit i).toNat : Int) := by
  rw [walshSign_eq_xorBelow, testBit_rmEncode, codewordBit, Nat.testBit_lt_two_pow hk, decide_eq_true hi,
    Bool.true_and, Bool.false_xor]

theorem getD_wht_eq_distance (c : Nat) (hk : k < 2 ^ r) :
    (wht r c).getD k 0 = 2 ^ r - 2 * (hammingDistance (2 ^ r) c (rmEncode r k) : Int) := by
  have hsum := sum_antipodal_mul (2 ^ r) c (rmEncode r k)
  push_cast at hsum
  rw [getD_wht c hk, walshSum_eq, ← hsum]
  exact Finset.sum_congr rfl fun i hi => by rw [walshSign_eq_antipodal hk (Finset.mem_range.mp hi)]

/-- The constant term complements a codeword. -/
theorem rmEncode_add_two_pow (hk : k < 2 ^ r) : rmEncode r (k + 2 ^ r) = rmEncode r k ^^^ (2 ^ 2 ^ r - 1) := by
  have hbit : (k + 2 ^ r).testBit r = true := by
    rw [Nat.add_comm, Nat.testBit_two_pow_add_eq, Nat.testBit_lt_two_pow hk, Bool.not_false]
  rw [← rmEncode_mod, mod_two_pow_succ_eq_xor, if_pos hbit, Nat.add_mod_right, Nat.mod_eq_of_lt hk, rmEncode_xor,
    rmEncode_two_pow_self]

theorem getD_wht_eq_distance_compl (c : Nat) (hk : k < 2 ^ r) :
    (wht r c).getD k 0 = 2 * (hammingDistance (2 ^ r) c (rmEncode r (k + 2 ^ r)) : Int) - 2 ^ r := by
  have hsum := hammingDistance_compl (2 ^ r) c (rmEncode r k)
  rw [← rmEncode_add_two_pow hk] at hsum
  have hcast : (hammingDistance (2 ^ r) c (rmEncode r (k + 2 ^ r)) : Int) +
      hammingDistance (2 ^ r) c (rmEncode r k) = 2 ^ r := by exact_mod_cast hsum
  rw [getD_wht_eq_distance c hk]
  linarith only [hcast]

/-- Settles O49: the bounds and the parity follow from the distance, which is at most 2^r. -/
theorem coefficientsMeasureAgreement : Obligations.CoefficientsMeasureAgreement := by
  intro r c k hk
  have hdistance := getD_wht_eq_distance c hk
  have hle : (hammingDistance (2 ^ r) c (rmEncode r k) : Int) ≤ 2 ^ r := by
    exact_mod_cast hammingDistance_le (2 ^ r) c (rmEncode r k)
  refine ⟨hdistance, getD_wht_eq_distance_compl c hk, by omega, by omega, by omega, fun rMax hr => ?_⟩
  have hpow : (2 : Int) ^ r < 2 ^ (rMax + 1) := pow_lt_pow_right₀ (by decide) (by omega)
  omega

/-- The coefficient of any message: its sign is the message's constant term (R147). -/
theorem getD_wht_message (r c m : Nat) :
    (wht r c).getD (m % 2 ^ r) 0 =
      if m.testBit r then 2 * (hammingDistance (2 ^ r) c (rmEncode r m) : Int) - 2 ^ r
      else 2 ^ r - 2 * (hammingDistance (2 ^ r) c (rmEncode r m) : Int) := by
  have hk : m % 2 ^ r < 2 ^ r := Nat.mod_lt _ (by positivity)
  have hmod := Nat.mod_pow_succ (b := 2) (k := r) (x := m)
  rw [← rmEncode_mod r m]
  cases hbit : m.testBit r with
  | true =>
    have hone : m / 2 ^ r % 2 = 1 := by
      rw [Nat.testBit_eq_decide_div_mod_eq] at hbit
      exact of_decide_eq_true hbit
    rw [hmod, hone, Nat.mul_one, if_pos rfl]
    exact getD_wht_eq_distance_compl c hk
  | false =>
    have hzero : m / 2 ^ r % 2 = 0 := by
      rw [Nat.testBit_eq_decide_div_mod_eq] at hbit
      have hne := of_decide_eq_false hbit
      omega
    rw [hmod, hzero, Nat.mul_zero, Nat.add_zero, if_neg Bool.false_ne_true]
    exact getD_wht_eq_distance c hk

/-- The coefficient of a codeword's own message is full. -/
theorem natAbs_getD_wht_rmEncode (r m : Nat) : ((wht r (rmEncode r m)).getD (m % 2 ^ r) 0).natAbs = 2 ^ r := by
  rw [getD_wht_message, hammingDistance_self, Nat.cast_zero, mul_zero]
  split
  · rw [zero_sub, Int.natAbs_neg, Int.natAbs_pow]
    rfl
  · rw [sub_zero, Int.natAbs_pow]
    rfl

/-- Settles O51: a codeword's own coefficient is full, and leaves no energy to the others; a full coefficient is at
distance 0 from its codeword, or from the complement. -/
theorem codewordsAreTheSinglePeaks : Obligations.CodewordsAreTheSinglePeaks := by
  intro r c hc
  constructor
  · rintro ⟨m, -, rfl⟩
    have hk : m % 2 ^ r < 2 ^ r := Nat.mod_lt _ (by positivity)
    have hfull := natAbs_getD_wht_rmEncode r m
    refine ⟨m % 2 ^ r, hk, ?_, fun j hj hne => getD_wht_eq_zero_of_full hk hj hne hfull⟩
    have hcases := Int.natAbs_eq_iff.mp hfull
    push_cast at hcases
    exact hcases
  · rintro ⟨k, hk, hfull | hfull, -⟩
    · rw [getD_wht_eq_distance c hk] at hfull
      exact ⟨k, by omega, (hammingDistance_eq_zero_iff hc (rmEncode_lt r k)).mp (by omega)⟩
    · rw [getD_wht_eq_distance_compl c hk] at hfull
      exact ⟨k + 2 ^ r, by omega, (hammingDistance_eq_zero_iff hc (rmEncode_lt r _)).mp (by omega)⟩

end coefficients

/-! ### Distances between codewords (41_codec.md R115 (c)) -/

section codewords
variable {r a b : Nat}

/-- Messages that agree in their linear terms differ in the constant term alone. -/
theorem mod_two_pow_eq_iff_xor_eq (ha : a < 2 ^ (r + 1)) (hb : b < 2 ^ (r + 1)) (hne : a ≠ b) :
    a % 2 ^ r = b % 2 ^ r ↔ a ^^^ b = 2 ^ r := by
  have hlt : a ^^^ b < 2 ^ (r + 1) := Nat.xor_lt_two_pow ha hb
  have hpos : a ^^^ b ≠ 0 := fun h => hne (Nat.xor_eq_zero_iff.mp h)
  rw [← Nat.xor_eq_zero_iff, ← Nat.xor_mod_two_pow]
  constructor
  · intro h
    obtain ⟨q, hq⟩ := Nat.dvd_of_mod_eq_zero h
    rw [hq] at hlt hpos ⊢
    have hq2 : q < 2 := Nat.lt_of_mul_lt_mul_left (Nat.pow_succ .. ▸ hlt)
    have hq0 : q ≠ 0 := by rintro rfl; exact hpos rfl
    obtain rfl : q = 1 := by omega
    exact Nat.mul_one _
  · intro h
    rw [h, Nat.mod_self]

/-- Settles O37: `b`'s coefficient in the transform of `a`'s codeword is full when they share it, with the other sign,
and 0 when they do not. -/
theorem distinctCodewordsAreFarApart : Obligations.DistinctCodewordsAreFarApart := by
  intro r a b ha hb hne
  have hkb : b % 2 ^ r < 2 ^ r := Nat.mod_lt _ (by positivity)
  have hcoeff := getD_wht_message r (rmEncode r a) b
  split
  · next hxor =>
    have hmod := (mod_two_pow_eq_iff_xor_eq ha hb hne).mpr hxor
    have hsign : b.testBit r = !a.testBit r := by
      have hbit : xor (a.testBit r) (b.testBit r) = true := by
        rw [← Nat.testBit_xor, hxor, Nat.testBit_two_pow_self]
      exact Bool.eq_not.mpr (Bool.xor_iff_ne.mp hbit).symm
    have hown := getD_wht_message r (rmEncode r a) a
    rw [hammingDistance_self, Nat.cast_zero, mul_zero, hmod, hcoeff, hsign] at hown
    have hcast := natCast_two_pow r
    cases hbit : a.testBit r <;> simp only [hbit, Bool.not_true, Bool.not_false, Bool.false_eq_true, if_true, if_false]
      at hown <;> omega
  · next hxor =>
    have hmod : b % 2 ^ r ≠ a % 2 ^ r := fun h => hxor ((mod_two_pow_eq_iff_xor_eq ha hb hne).mp h.symm)
    have hzero := getD_wht_eq_zero_of_full (Nat.mod_lt a (by positivity)) hkb hmod (natAbs_getD_wht_rmEncode r a)
    rw [hzero] at hcoeff
    cases r with
    | zero => exact absurd (by rw [Nat.pow_zero, Nat.mod_one, Nat.mod_one]) hmod
    | succ n =>
      have hhalf : (2 : Int) ^ (n + 1) = 2 * 2 ^ n := pow_succ' 2 n
      have hcast := natCast_two_pow n
      rw [Nat.add_sub_cancel]
      split at hcoeff <;> omega

end codewords

end Sys2Proof.Machine
end

section
/-! PROOF. `UNALTER` as a decoder (spec/43_hadamard.md section 3): the peak of the transform is a nearest codeword,
hence the codeword itself when it is near enough. -/

namespace Sys2Proof.Machine

/-! ### The peak is a nearest codeword (R146 to R148) -/

section nearest
variable {r c m : Nat}

/-- The greatest magnitude is that of the coefficient of the message found. -/
theorem getD_wht_peakMessage (r c : Nat) :
    (wht r c).getD (peakMessage r (wht r c) % 2 ^ r) 0 = peakValue (wht r c) ∧
      ((peakMessage r (wht r c)).testBit r = true ↔ peakValue (wht r c) < 0) := by
  have hpos : peakIndex (wht r c) < 2 ^ r :=
    length_wht r c ▸ peakIndex_lt (ne_nil_of_length_two_pow (length_wht r c))
  rw [peakMessage]
  split
  · next hneg =>
    rw [Nat.add_mod_right, Nat.mod_eq_of_lt hpos, Nat.add_comm, Nat.testBit_two_pow_add_eq,
      Nat.testBit_lt_two_pow hpos, Bool.not_false]
    exact ⟨rfl, iff_of_true rfl hneg⟩
  · next hneg =>
    rw [Nat.add_zero, Nat.mod_eq_of_lt hpos, Nat.testBit_lt_two_pow hpos]
    exact ⟨rfl, iff_of_false Bool.false_ne_true hneg⟩

/-- The magnitude of the peak measures the distance to the codeword of the message found. -/
theorem natAbs_peakValue_eq_distance (r c : Nat) :
    ((peakValue (wht r c)).natAbs : Int) =
      2 ^ r - 2 * (hammingDistance (2 ^ r) c (rmEncode r (peakMessage r (wht r c))) : Int) := by
  obtain ⟨hvalue, hsign⟩ := getD_wht_peakMessage r c
  have hcoeff := getD_wht_message r c (peakMessage r (wht r c))
  rw [hvalue] at hcoeff
  split at hcoeff
  · next hbit =>
    have hneg := hsign.mp hbit
    omega
  · next hbit =>
    have hnonneg : ¬ peakValue (wht r c) < 0 := fun hneg => hbit (hsign.mpr hneg)
    omega

/-- `DIST` is the distance of the word to the codeword found (R148). -/
theorem peakDistance_eq_hammingDistance (r c : Nat) :
    peakDistance r (wht r c) = hammingDistance (2 ^ r) c (rmEncode r (peakMessage r (wht r c))) := by
  have habs := natAbs_peakValue_eq_distance r c
  have hcast := natCast_two_pow r
  rw [peakDistance]
  omega

/-- No codeword is nearer: its coefficient would exceed the peak. -/
theorem hammingDistance_peakMessage_le (r c m : Nat) :
    hammingDistance (2 ^ r) c (rmEncode r (peakMessage r (wht r c))) ≤ hammingDistance (2 ^ r) c (rmEncode r m) := by
  have habs := natAbs_peakValue_eq_distance r c
  have hmax := natAbs_getD_le_maxMagnitude (wht r c) (m % 2 ^ r)
  rw [← natAbs_peakValue (ne_nil_of_length_two_pow (length_wht r c)), getD_wht_message] at hmax
  split at hmax <;> omega

theorem peakMessage_wht_lt (r c : Nat) : peakMessage r (wht r c) < 2 ^ (r + 1) := peakMessage_lt (length_wht r c)

/-- A message has one codeword (R119). -/
theorem eq_of_rmEncode_eq {m' : Nat} (hm : m < 2 ^ (r + 1)) (hm' : m' < 2 ^ (r + 1))
    (h : rmEncode r m = rmEncode r m') : m = m' := by
  rw [← Nat.mod_eq_of_lt hm, ← rmDecode_rmEncode, h, rmDecode_rmEncode, Nat.mod_eq_of_lt hm']

/-- The search finds the message of a codeword. -/
theorem peakMessage_rmEncode (hm : m < 2 ^ (r + 1)) : peakMessage r (wht r (rmEncode r m)) = m := by
  have hle := hammingDistance_peakMessage_le r (rmEncode r m) m
  rw [hammingDistance_self, Nat.le_zero, hammingDistance_eq_zero_iff (rmEncode_lt r _) (rmEncode_lt r _)] at hle
  exact eq_of_rmEncode_eq (peakMessage_wht_lt r _) hm hle.symm

/-- Within less than a quarter of the length there is no second codeword, by the triangle inequality and R115 (c)
(R150 (b)). -/
theorem peakMessage_of_distance_le (hr : 2 ≤ r) (hm : m < 2 ^ (r + 1))
    (h : hammingDistance (2 ^ r) c (rmEncode r m) ≤ 2 ^ (r - 2) - 1) : peakMessage r (wht r c) = m := by
  by_contra hne
  have hle := hammingDistance_peakMessage_le r c m
  have htriangle := hammingDistance_triangle (2 ^ r) (rmEncode r (peakMessage r (wht r c))) (rmEncode r m) c
  rw [hammingDistance_comm _ _ c, distinctCodewordsAreFarApart r _ m (peakMessage_wht_lt r c) hm hne] at htriangle
  obtain ⟨n, rfl⟩ := Nat.exists_eq_add_of_le' hr
  have hquarter : 0 < 2 ^ n := Nat.two_pow_pos n
  have hhalf : 2 ^ (n + 1) = 2 * 2 ^ n := Nat.pow_succ'
  have hwhole : 2 ^ (n + 2) = 2 * 2 ^ (n + 1) := Nat.pow_succ'
  rw [Nat.add_sub_cancel] at h
  rw [show n + 2 - 1 = n + 1 from rfl] at htriangle
  split at htriangle <;> omega

end nearest

/-! ### The command (R149, R150) -/

/-- Distances look at the operand's positions only (R114 (b)). -/
theorem hammingDistance_wordOperand (r b : Nat) (x : Vec) :
    hammingDistance (2 ^ r) (wordOperand r x) b = hammingDistance (2 ^ r) x.val b :=
  hammingDistance_congr fun _ => testBit_wordOperand x

section command
variable {s : State} {r : Nat}

/-- The state `UNALTER` ends in: the codeword of the message found, and the results of the search. -/
theorem exec_unalter_spec (vd va : VReg) (arg : Word) (hr : s.param? = some r) :
    ∃ t, exec (.unalter vd va arg) s = .next t ∧ t.param? = some r ∧
      t.v vd = ⟨2 ^ r, rmEncode r (peakMessage r (wht r (wordOperand r (s.v va))))⟩ ∧
      t.peak? = some (peakOf r (wht r (wordOperand r (s.v va)))) := by
  have hcodec := s.unalter_codec vd r (wht r (wordOperand r (s.v va)))
  refine ⟨_, exec_unalter_ok hr, State.param?_of_codec_some hcodec, ?_, State.peak?_of_codec_some hcodec⟩
  rw [State.putResponse_v, State.unalter, State.v_setV_same]

/-- Settles O53: the search finds the message, `peakMessage_rmEncode`, so its coefficient is full. -/
theorem unalterLeavesCodewordsUnchanged : Obligations.UnalterLeavesCodewordsUnchanged := by
  intro vd va arg s r m hr hle hm hword
  obtain ⟨t, hnext, -, hv, hpeak⟩ := exec_unalter_spec vd va arg hr
  have hoperand : wordOperand r (s.v va) = rmEncode r m := hword
  have hmsg := peakMessage_rmEncode hm
  have hdist := peakDistance_eq_hammingDistance r (rmEncode r m)
  have habs := natAbs_peakValue_eq_distance r (rmEncode r m)
  rw [hmsg, hammingDistance_self] at hdist habs
  rw [hoperand] at hv hpeak
  rw [hmsg] at hv
  refine ⟨t, _, hnext, hv, hpeak, congrArg zext32 hdist, congrArg zext32 hmsg, ?_⟩
  have hvalue : peakValue (wht r (rmEncode r m)) = 2 ^ r ∨ peakValue (wht r (rmEncode r m)) = -(2 ^ r) := by omega
  exact hvalue.imp (congrArg sext32) (congrArg sext32)

/-- Settles O54: the search finds the message, `peakMessage_of_distance_le`, and `DEC` decodes its codeword. -/
theorem unalterCorrectsWithinTheGuarantee : Obligations.UnalterCorrectsWithinTheGuarantee := by
  intro vd va arg a s r m hr hge hle hm hdist
  obtain ⟨t, hnext, hparam, hv, hpeak⟩ := exec_unalter_spec vd va arg hr
  rw [← hammingDistance_wordOperand] at hdist ⊢
  have hmsg := peakMessage_of_distance_le hge hm hdist
  have hreport := peakDistance_eq_hammingDistance r (wordOperand r (s.v va))
  rw [hmsg] at hv hreport
  have hdecoded : rmDecode r (wordOperand r (t.v vd)) = m := by
    rw [hv, wordOperand, trunc, Nat.mod_eq_of_lt (rmEncode_lt r m), rmDecode_rmEncode, Nat.mod_eq_of_lt hm]
  refine ⟨t, _, _, hnext, hv, hpeak, (toNat_peakOf_dist hle).trans hreport, exec_dec_ok hparam, ?_⟩
  rw [hdecoded]
  rfl

/-- Settles O55: `DIST` is the least distance, so it is 0 exactly when some codeword is the word itself. -/
theorem unalterReturnsANearestCodeword : Obligations.UnalterReturnsANearestCodeword := by
  intro vd va arg s r hr hle
  obtain ⟨t, hnext, -, hv, hpeak⟩ := exec_unalter_spec vd va arg hr
  have hlength := length_wht r (wordOperand r (s.v va))
  have hdist := (toNat_peakOf_dist (F := wht r (wordOperand r (s.v va))) hle).trans
    (peakDistance_eq_hammingDistance r (wordOperand r (s.v va)))
  have hnearest := hammingDistance_peakMessage_le r (wordOperand r (s.v va))
  refine ⟨t, _, hnext, hpeak, ?_⟩
  simp only [toNat_peakOf_msg hle hlength, ← hammingDistance_wordOperand]
  refine ⟨peakMessage_lt hlength, hv, hdist, hnearest, ?_⟩
  have hzero (m : Nat) : hammingDistance (2 ^ r) (wordOperand r (s.v va)) (rmEncode r m) = 0 ↔
      (s.v va).val % 2 ^ 2 ^ r = rmEncode r m :=
    hammingDistance_eq_zero_iff (wordOperand_lt r _) (rmEncode_lt r m)
  rw [← BitVec.toNat_inj, hdist]
  constructor
  · exact fun h => ⟨_, (hzero _).mp h⟩
  · rintro ⟨m, hm⟩
    exact Nat.le_zero.mp ((hnearest m).trans_eq ((hzero m).mpr hm))

end command

end Sys2Proof.Machine
end
